-- ==== Sys2Proof/Word.lean ====
section
/-! DEFINITION. The words of FIRCB-CORE: the 32-bit word every register, sample, coefficient and memory
location is made of (spec 00 R7), the 64-bit command word (30 R61) and the 72-bit response record (30 R70).
No word is ever viewed as bytes (20 R40). -/

namespace Sys2Proof

/-- A word is 32 bits unless a width is written (00 R7). -/
abbrev Word := BitVec 32

/-- One command is one word of exactly 64 bits (30 R61). -/
abbrev CommandWord := BitVec 64

/-- The response record is 72 bits (30 R70). -/
abbrev ResponseWord := BitVec 72

end Sys2Proof
end

