-- ==== Sys2Proof/Syntax.lean ====
section
/-! DEFINITION. The six commands of the opcode map (spec 30 R68, one constructor per row of opcode_table.json),
the two ports they arrive on (30 R60), and the three pseudo-instructions (30 R73). Integer operands are natural
numbers, since every rule uses them as exact unsigned integers (30 R67); WellFormed.lean bounds them by their
fields. The value of SETF is a bit pattern and stays a word. -/

namespace Sys2Proof

/-- The two command ports (30 R60): `c` takes all six commands, `p` only SETF and GETF. -/
inductive Port where
  | c
  | p
deriving DecidableEq, Repr

/-- The commands (30 R68). -/
inductive Instr where
  /-- CREATE, format W (30 R63; semantics 44 R145). -/
  | create (blockSize : Nat)
  /-- PROCESS, format P (30 R64; semantics 43 R125). -/
  | process (frames inChannels outChannels : Nat)
  /-- GETB, format X (30 R65; semantics 44 R147). -/
  | getb (index : Nat)
  /-- SETF, format V (30 R66; semantics 44 R148). -/
  | setf (index : Nat) (value : Word)
  /-- GETF, format X (30 R65; semantics 44 R149). -/
  | getf (index : Nat)
  /-- RELEASE, format N (30 R62; semantics 44 R146). -/
  | release
deriving DecidableEq, Repr

/-- Why a 64-bit word is no command (30 R69 a and b; the port condition c is checked where a command runs). -/
inductive IllegalWord where
  /-- `OPC` is 0x0 or 0x7 to 0xF (30 R69 a). -/
  | reservedOpcode
  /-- A bit that the command's format marks zero is 1 (30 R69 b). -/
  | reservedBits
deriving DecidableEq, Repr

/-- The pseudo-instruction `SETSPEED value` (30 R73, 44 R152). -/
def Instr.setspeed (value : Word) : Instr := .setf 1 value

/-- The pseudo-instruction `GETSPEED` (30 R73, 44 R152). -/
def Instr.getspeed : Instr := .getf 1

/-- The pseudo-instruction `GETWAVE` (30 R73, 44 R152). -/
def Instr.getwave : Instr := .getb 0

/-- The row of opcode_table.json a command belongs to (30 R68). -/
def Instr.mnemonic : Instr → String
  | .create _ => "CREATE"
  | .process _ _ _ => "PROCESS"
  | .getb _ => "GETB"
  | .setf _ _ => "SETF"
  | .getf _ => "GETF"
  | .release => "RELEASE"

end Sys2Proof
end

