-- ==== Sys2Proof/WellFormed.lean ====
section
/-! DEFINITION. Which commands have an encoding: every operand fits its field (spec 30 R63 to R66). -/

namespace Sys2Proof

/-- Every operand is in the range of its field: `W` 32 bits, `ICH` and `OCH` 8 bits, `IDX` 16 bits. -/
def Instr.wellFormed : Instr → Bool
  | .create b => decide (b < 2 ^ 32)
  | .process f i o => decide (f < 2 ^ 32) && decide (i < 2 ^ 8) && decide (o < 2 ^ 8)
  | .getb x => decide (x < 2 ^ 16)
  | .setf x _ => decide (x < 2 ^ 16)
  | .getf x => decide (x < 2 ^ 16)
  | .release => true

end Sys2Proof
end

