-- ==== Sys2Proof/Decode.lean ====
section
/-! DEFINITION. The decoder (spec 30 R61 to R69), total on every 64-bit word and rejecting by name, the encoder
written from the same format tables, and the opcode table as data. -/

namespace Sys2Proof

/-- The bit slice `w[lo + len - 1 : lo]` as an unsigned integer (00 R7). -/
def field (w : CommandWord) (lo len : Nat) : Nat := (w.extractLsb' lo len).toNat

/-- The decoder: the opcode selects the format, and every bit the format marks zero must be 0 (30 R61 to R69). -/
def decode (w : CommandWord) : Except IllegalWord Instr :=
  match field w 60 4 with
  | 1 => if field w 32 28 = 0 then .ok (.create (field w 0 32)) else .error .reservedBits
  | 2 => if field w 48 12 = 0 then .ok (.process (field w 0 32) (field w 40 8) (field w 32 8)) else .error .reservedBits
  | 3 => if field w 48 12 = 0 ∧ field w 0 32 = 0 then .ok (.getb (field w 32 16)) else .error .reservedBits
  | 4 => if field w 48 12 = 0 then .ok (.setf (field w 32 16) (w.extractLsb' 0 32)) else .error .reservedBits
  | 5 => if field w 48 12 = 0 ∧ field w 0 32 = 0 then .ok (.getf (field w 32 16)) else .error .reservedBits
  | 6 => if field w 0 60 = 0 then .ok .release else .error .reservedBits
  | _ => .error .reservedOpcode

/-- The decoder's answer on a word numbered as opcode_table.json numbers it: one 64-bit word, bit 0 the least
significant; every bit from `nbits` up is 0. -/
def decodeTableWord (nbits w : Nat) : Option Instr :=
  match decode (BitVec.ofNat 64 (w % 2 ^ nbits)) with
  | .ok i => some i
  | .error _ => none

/-- `v` placed with its bit 0 at bit `lo` of a command word. -/
def place (v lo : Nat) : Nat := v * 2 ^ lo

/-- The command word of a well-formed command: `OPC` at bit 60 and each operand at its field (30 R62 to R68, R74).
The fields do not overlap, so adding them is or'ing them. -/
def encode : Instr → CommandWord
  | .create b => BitVec.ofNat 64 (place 1 60 + place b 0)
  | .process f i o => BitVec.ofNat 64 (place 2 60 + place i 40 + place o 32 + place f 0)
  | .getb x => BitVec.ofNat 64 (place 3 60 + place x 32)
  | .setf x v => BitVec.ofNat 64 (place 4 60 + place x 32 + place v.toNat 0)
  | .getf x => BitVec.ofNat 64 (place 5 60 + place x 32)
  | .release => BitVec.ofNat 64 (place 6 60)

/-- One row of the opcode map: a word `w` is the row's command exactly when `w &&& mask = fixed` (30 R68). -/
structure OpcodeRow where
  mnemonic : String
  fixed : CommandWord
  mask : CommandWord
deriving DecidableEq, Repr

/-- The six rows of opcode_table.json (30 R68). -/
def opcodeTable : List OpcodeRow :=
  [⟨"CREATE", 0x1000000000000000#64, 0xFFFFFFFF00000000#64⟩,
   ⟨"PROCESS", 0x2000000000000000#64, 0xFFFF000000000000#64⟩,
   ⟨"GETB", 0x3000000000000000#64, 0xFFFF0000FFFFFFFF#64⟩,
   ⟨"SETF", 0x4000000000000000#64, 0xFFFF000000000000#64⟩,
   ⟨"GETF", 0x5000000000000000#64, 0xFFFF0000FFFFFFFF#64⟩,
   ⟨"RELEASE", 0x6000000000000000#64, 0xFFFFFFFFFFFFFFFF#64⟩]

/-- `w` is the command of row `r` (30 R68). -/
def OpcodeRow.matches (r : OpcodeRow) (w : CommandWord) : Bool := (w &&& r.mask) == r.fixed

/-- The ports that accept a command (30 R60, R68 column `ports`): the P-port takes only SETF and GETF. -/
def Instr.acceptedOn : Instr → Port → Bool
  | _, .c => true
  | .setf _ _, .p => true
  | .getf _, .p => true
  | .create _, .p => false
  | .process _ _ _, .p => false
  | .getb _, .p => false
  | .release, .p => false

end Sys2Proof
end

