-- ==== Sys2Proof/Machine/Binary32.lean ====
section
/-! DEFINITION. Binary32 words and the three primitives `fadd32`, `fsub32`, `fmul32` (spec 40). An operation
answers `none` where its rule says "a NaN": which NaN that is, is the parameter `NAN_RESULT` (40 R88), resolved
in Machine/Ops.lean. Finite values are exact integers in units of 2^-149, the smallest positive value, so every
sum and product is computed exactly and rounded once (40 R91). No flags, no traps (40 R90). -/

namespace Sys2Proof.Machine

/-- `F(+0.0)` (40 R81). -/
def posZero : Word := 0x00000000#32

/-- `-0` (40 R81). -/
def negZero : Word := 0x80000000#32

/-- `F(1.0)` (40 R81). -/
def floatOne : Word := 0x3F800000#32

/-- The sign bit `S`, bit 31 (40 R80). -/
def signBit (w : Word) : Bool := w.getLsbD 31

/-- The biased exponent `E`, bits 30:23 (40 R80). -/
def expField (w : Word) : Nat := (w.extractLsb' 23 8).toNat

/-- The fraction `T`, bits 22:0 (40 R80). -/
def fracField (w : Word) : Nat := (w.extractLsb' 0 23).toNat

/-- NaN: `E = 255` and `T` not 0 (40 R81). -/
def isNaN (w : Word) : Bool := expField w == 255 && fracField w != 0

/-- A quiet NaN has bit 22 set (40 R81). -/
def isQuietNaN (w : Word) : Bool := isNaN w && w.getLsbD 22

/-- Infinity: `E = 255` and `T = 0` (40 R81). -/
def isInf (w : Word) : Bool := expField w == 255 && fracField w == 0

/-- Zero, of either sign: `E = 0` and `T = 0` (40 R81). -/
def isZero (w : Word) : Bool := expField w == 0 && fracField w == 0

/-- Finite: neither NaN nor infinity (40 R81). -/
def isFinite (w : Word) : Bool := expField w != 255

/-- The magnitude of a finite word in units of 2^-149: `T` for a zero or a subnormal, `(2^23 + T) * 2^(E - 1)`
for a normal (40 R81, where the value is `(2^23 + T) * 2^(E - 150)`). -/
def magnitude (w : Word) : Nat :=
  if expField w = 0 then fracField w else (2 ^ 23 + fracField w) * 2 ^ (expField w - 1)

/-- The value of a finite word in units of 2^-149 (40 R81). -/
def scaledValue (w : Word) : Int := if signBit w then -(magnitude w : Int) else magnitude w

/-- `neg(b)`: bit 31 inverted (40 R84). -/
def fneg (w : Word) : Word := w ^^^ negZero

/-- The integer nearest to `num / den`, ties to the even one. -/
def roundHalfEven (num den : Nat) : Nat :=
  let q := num / den
  let r := num % den
  if 2 * r > den ∨ (2 * r = den ∧ q % 2 = 1) then q + 1 else q

/-- The exponent of the spacing, in units of 2^-149, of the binary32 values around `num / den`: `2^0` up to the
first normal binade, then one more per binade (40 R81, R82; the exponent range is unbounded above). -/
def quantumExp (num den : Nat) : Nat := Nat.log2 (num / den) - 23

/-- Bits 30:0 of `round32` of the magnitude `num / den` in units of 2^-149: the nearest multiple of the spacing,
ties to even, packed (a carry out of the fraction moves to the next binade by itself), and infinity from
2^128 on (40 R82). -/
def roundMagnitude (num den : Nat) : Nat :=
  let e := quantumExp num den
  min (e * 2 ^ 23 + roundHalfEven num (den * 2 ^ e)) 0x7F800000

/-- The word with sign `s` and bits 30:0 `m`. -/
def packSign (s : Bool) (m : Nat) : Word := BitVec.ofNat 32 ((if s then 2 ^ 31 else 0) + m)

/-- `round32(q)` for a `q` of sign `s` and magnitude `num / den` in units of 2^-149; a `q` that rounds to
magnitude zero keeps its sign (40 R82). -/
def round32 (s : Bool) (num den : Nat) : Word := packSign s (roundMagnitude num den)

/-- `fadd32(a, b)`, the cases of 40 R83 in their order; `none` is "a NaN". -/
def fadd32 (a b : Word) : Option Word :=
  if isNaN a || isNaN b then none
  else if isInf a && isInf b && signBit a != signBit b then none
  else if isInf a then some a
  else if isInf b then some b
  else if isZero a && isZero b then some (if signBit a && signBit b then negZero else posZero)
  else
    let q := scaledValue a + scaledValue b
    if q = 0 then some posZero else some (round32 (decide (q < 0)) q.natAbs 1)

/-- `fsub32(a, b) = fadd32(a, neg(b))` when neither is a NaN (40 R84). -/
def fsub32 (a b : Word) : Option Word :=
  if isNaN a || isNaN b then none else fadd32 a (fneg b)

/-- `fmul32(a, b)`, the cases of 40 R85 in their order; the exact product of two magnitudes is in units of
2^-298, that is over the denominator 2^149. -/
def fmul32 (a b : Word) : Option Word :=
  let s := signBit a != signBit b
  if isNaN a || isNaN b then none
  else if (isInf a && isZero b) || (isZero a && isInf b) then none
  else if isInf a || isInf b then some (packSign s 0x7F800000)
  else if isZero a || isZero b then some (packSign s 0)
  else some (round32 s (magnitude a * magnitude b) (2 ^ 149))

/-- A quiet NaN carrying the sign and the fraction bits of `w`: bits 30:22 set. Every quiet NaN is one. -/
def quietNaN (w : Word) : Word := w ||| 0x7FC00000#32

/-- `w` if it is finite, else `w` with exponent bit 23 cleared, which is finite. Every finite word is one. -/
def makeFinite (w : Word) : Word := if isFinite w then w else w &&& 0xFF7FFFFF#32

end Sys2Proof.Machine
end

