-- ==== Sys2Proof/Config.lean ====
section
/-! DEFINITION. The constants the source fixes (spec 00 R5), the declared metadata (10 R24), the parameters a model
takes as arguments (00 R6), and the free values of the model: opaque constants with no body, so that no proof can
see what they are. -/

namespace Sys2Proof

/-- Taps per filter, tap indices 0 to 20 (00 R5). -/
abbrev Config.taps : Nat := 21

/-- The multiplier of the ring capacity (00 R5, 42 R110). -/
def Config.maxch : Nat := 8

/-- Declared metadata: one input buffer (00 R5, 10 R24). -/
def Config.numIn : Nat := 1

/-- Declared metadata: one output buffer (00 R5, 10 R24). -/
def Config.numOut : Nat := 1

/-- Declared metadata: two addressable parameters (00 R5, 10 R24). -/
def Config.numParams : Nat := 2

/-- Declared metadata: the name of a parameter (00 R5, 10 R24); `none` for an index that names no parameter. -/
def Config.paramName : Nat → Option String
  | 0 => some "wave data"
  | 1 => some "speed"
  | _ => none

/-- Declared metadata: the range [0, 1] and the default 1 of the parameter "speed", as binary32 words
(00 R5, 10 R19); no operation enforces the range. -/
def Config.speedRange : Word × Word := (0x00000000#32, 0x3F800000#32)

/-- The default of the parameter "speed", its value after CREATE (10 R19, R35). -/
def Config.speedDefault : Word := 0x3F800000#32

/-- The parameter `NAN_RESULT`: any quiet NaN, drawn afresh at every operation (the default), or one fixed NaN
word (40 R88). -/
inductive NanResult where
  | anyQuiet
  | fixed (w : Word)
deriving DecidableEq, Repr

/-- A function of `NUMERICS` as plain data (log 8): the operand pairs at which it differs from the function of file 40,
each with its result there; `none` is "a NaN", as in 40 R88. There are finitely many pairs of words, so every function
of two words is one of these. -/
abbrev OpTable := List ((Word × Word) × Option Word)

/-- The parameter `NUMERICS`: the three functions, depending on their operands only (00 R6, log 8). -/
structure NumericsTables where
  fadd32 : OpTable
  fsub32 : OpTable
  fmul32 : OpTable
deriving DecidableEq, Repr

/-- The default of `NUMERICS`: as file 40 defines the three functions (00 R6). -/
def NumericsTables.file40 : NumericsTables := ⟨[], [], []⟩

/-- The seven parameters of 00 R6, as data. -/
structure Config where
  /-- `COEF_LOW[0..20]`, the bank `filterLow`. -/
  coefLow : Vector Word Config.taps
  /-- `COEF_HIGH[0..20]`, the bank `filterHigh`. -/
  coefHigh : Vector Word Config.taps
  /-- `RING_WORDS`, the 32-bit words of ring RAM. -/
  ringWords : Nat
  /-- `SCW`, the width in bits of `sampleCount`. -/
  scw : Nat
  /-- `STATE_BASE`, the handle of the wave-data blob. -/
  stateBase : Word
  /-- `NAN_RESULT`. -/
  nanResult : NanResult
  /-- `NUMERICS`. -/
  numerics : NumericsTables
deriving DecidableEq, Repr

/-- The largest value of `sampleCount`, `2^SCW - 1` (10 R14). -/
def Config.maxSampleCount (cfg : Config) : Nat := 2 ^ cfg.scw - 1

/-- A fixed `NAN_RESULT` is a NaN word (93 P). -/
def NanResult.wf : NanResult → Bool
  | .anyQuiet => true
  | .fixed w => Machine.isNaN w

/-- The constraints of 00 R6: finite coefficients, `RING_WORDS < 2^32`, `SCW >= 1` and
`floor(RING_WORDS / 8) <= 2^SCW - 1`. -/
def Config.wf (cfg : Config) : Bool :=
  cfg.coefLow.toList.all Machine.isFinite && cfg.coefHigh.toList.all Machine.isFinite
    && decide (cfg.ringWords < 2 ^ 32) && decide (1 ≤ cfg.scw)
    && decide (cfg.ringWords / 8 ≤ cfg.maxSampleCount) && cfg.nanResult.wf

/-- The `n`-th free value the block draws: where the spec leaves a value open, the model takes the next of these
(log 7). No body: nothing can be proved about any of them. -/
opaque Config.freeWord : Nat → Word

/-- The open parameter `COEF_LOW`, before the constraint that each word is finite (00 R6, log 1). -/
opaque Config.openCoefLow : Fin Config.taps → Word

/-- The open parameter `COEF_HIGH`, before the constraint that each word is finite (00 R6, log 1). -/
opaque Config.openCoefHigh : Fin Config.taps → Word

/-- The open parameter `RING_WORDS`, below 2^32 by its type (00 R6, log 1). -/
opaque Config.openRingWords : Word

/-- The parameters of the block after reset: the open ones are open, the others have the defaults of 00 R6. -/
def Config.platform : Config where
  coefLow := Vector.ofFn fun i => Machine.makeFinite (Config.openCoefLow i)
  coefHigh := Vector.ofFn fun i => Machine.makeFinite (Config.openCoefHigh i)
  ringWords := Config.openRingWords.toNat
  scw := 32
  stateBase := 0x00000000#32
  nanResult := .anyQuiet
  numerics := .file40

end Sys2Proof
end

