-- ==== Sys2Proof/Machine/State.lean ====
section
/-! DEFINITION. The state of FIRCB-CORE as plain data (spec 10), its reset value (10 R34), and the reasons a step
could stop. -/

namespace Sys2Proof.Machine

/-- Nothing stops the machine: every word a port accepts is answered with a response (60 R165, 70 R206), and every
error is a status of that response. So there is no fault reason, and nothing raises one: safe. -/
inductive Fault where
deriving DecidableEq, Repr

/-- Why an instruction has no meaning. -/
inductive Refusal where
  /-- Raised by an arm of `exec` whose instruction has no meaning yet; no arm of this model raises it. Safe. -/
  | notModelled (mnemonic : String)
deriving DecidableEq, Repr

/-- A word-addressed memory (10 R30): (word index, word) pairs with strictly rising indices, none of them equal to
`F(+0.0)`, which is what an unlisted word reads as. -/
abbrev Memory := List (Nat × Word)

/-- The canonical form of a memory. -/
def Memory.wf : Memory → Bool
  | [] => true
  | (_, v) :: [] => decide (v ≠ posZero)
  | (k, v) :: (k', v') :: rest => decide (v ≠ posZero) && decide (k < k') && Memory.wf ((k', v') :: rest)

/-- The status codes (30 R71). -/
inductive Status where
  /-- The command did what its rule says. -/
  | ok
  /-- CREATE cannot get its storage (60 R166). -/
  | errOutOfMemory
  /-- Parameter index outside the valid set of the operation (60 R167). -/
  | errInvalidParam
  /-- PROCESS with `capacity = 0` (60 R168). -/
  | errEmptyBuffer
  /-- Illegal command word (60 R169). -/
  | errIllegalCommand
  /-- PROCESS with `inChannels` different from `outChannels` (60 R169). -/
  | errChannelMismatch
  /-- A command other than CREATE with `alive = 0`; sets `fault` (60 R171). -/
  | errNoInstance
  /-- PROCESS would take `sampleCount` past its end; sets `fault` (60 R172). -/
  | errCounter
  /-- Any command while `fault = 1` (60 R173). -/
  | errFaulted
deriving DecidableEq, Repr

/-- The response record (30 R70); `Response.bits` gives its 72 bits. -/
structure Response where
  status : Status
  d0 : Word
  d1 : Word
deriving DecidableEq, Repr

/-- What the outside world does to the block, in the one merged order in which it takes effect (20 R52). -/
inductive HostEvent where
  /-- The C-port host presents a command word, with the IN words the command will read, in order. -/
  | commandC (word : CommandWord) (inWords : List Word)
  /-- The P-port host presents a command word. -/
  | commandP (word : CommandWord)
  /-- Hardware reset between commands (70 R190). -/
  | reset
  /-- Hardware reset while the C-port command `word` is in progress (70 R191). -/
  | resetDuring (word : CommandWord)
deriving DecidableEq, Repr

/-- The one instance the block may hold (10 R10): its registers and its ring. -/
structure DspState where
  /-- 32-bit register (10 R17). -/
  blockSize : Word
  /-- 32-bit register, the length of the ring in words (10 R18). -/
  capacity : Word
  /-- The ring pointer, an unsigned integer of `SCW` bits (10 R14). -/
  sampleCount : Nat
  /-- Parameter index 1, "speed" (10 R19). -/
  speedPercent : Word
  /-- Present but unused (10 R22). -/
  volumeLinear : Word
  /-- Present but unused; its width is not in the spec (10 R23, log 6). -/
  channelsField : Word
  /-- `ring[0 .. capacity-1]` (10 R28). -/
  ring : Memory
deriving DecidableEq, Repr

/-- The working registers (10 R12). -/
structure Working where
  /-- The control value sampled at the start of the current PROCESS (10 R31). -/
  xs : Word
  /-- `1 - xs`. -/
  omx : Word
  /-- The EffectiveFilter (10 R26). -/
  eff : Vector Word Config.taps
  /-- The running sum of the MAC (10 R27). -/
  acc : Word
deriving DecidableEq, Repr

/-- The phases of the sequencer (10 R13). -/
inductive Phase where
  | interp
  | write
  | mac
  | advance
deriving DecidableEq, Repr

/-- The sequencer position: IDLE, or a phase with the frame `s`, the channel `c` and the tap `i` (10 R13). -/
inductive Seq where
  | idle
  | busy (phase : Phase) (s c i : Nat)
deriving DecidableEq, Repr

/-- The operands of a PROCESS (43 R125); the stride `nch` is `outChannels` (42 R112). -/
structure ProcessOperands where
  frames : Nat
  inChannels : Nat
  outChannels : Nat
deriving DecidableEq, Repr

/-- What a PROCESS works on after its checks: the parameters and IN, which it only reads, and the instance, the
working registers, OUT and the draw counter, which it writes (43 R125). -/
structure Engine where
  config : Config
  inBuf : List Word
  inst : DspState
  work : Working
  out : Memory
  draws : Nat
deriving DecidableEq, Repr

/-- The state of the block (10 R10), with its parameters (00 R6), the host-owned spaces IN and OUT (10 R29), the
inputs to come and the responses returned (20 R52, 30 R70), and the counter of the free values drawn (log 7). -/
structure State where
  /-- The parameters and the two banks; no step changes them (log 1). -/
  config : Config
  /-- Commands and resets to come, the next first (log 2). -/
  inputs : List HostEvent
  /-- The port of the command being performed (log 15). -/
  port : Port
  /-- The IN space (10 R29, log 11). -/
  inBuf : List Word
  /-- Responses of the C-port, newest first (log 15). -/
  rspC : List Response
  /-- Responses of the P-port, newest first (log 15). -/
  rspP : List Response
  /-- The sticky bit (10 R16). -/
  fault : Bool
  /-- The instance; `alive` is its presence (10 R11, R33, log 4). -/
  inst : Option DspState
  /-- The sequencer position (10 R13, log 13). -/
  seq : Seq
  /-- The working registers (10 R12). -/
  work : Working
  /-- The OUT space (10 R29, log 10, log 12). -/
  out : Memory
  /-- How many free values have been drawn (log 7). -/
  draws : Nat
deriving DecidableEq, Repr

/-- The working registers after reset: the spec leaves them unspecified (10 R34); zero is the model's choice
(log 5, DESIGN CHOICE, unsafe), and no rule reads one before writing it (10 R12). -/
def Working.reset : Working where
  xs := 0x00000000#32
  omx := 0x00000000#32
  eff := Vector.replicate Config.taps 0x00000000#32
  acc := 0x00000000#32

/-- The block right after hardware reset (10 R34, 70 R190): no instance, no fault, the sequencer idle, both ports
ready and nothing presented yet. -/
def State.reset : State where
  config := Config.platform
  inputs := []
  port := .c
  inBuf := []
  rspC := []
  rspP := []
  fault := false
  inst := none
  seq := .idle
  work := Working.reset
  out := []
  draws := 0

end Sys2Proof.Machine
end

