-- ==== Sys2Proof/Machine/Ops.lean ====
section
/-! DEFINITION. The operations every command shares: reading and writing a word of memory (spec 00 R8), the floor
modulo (00 R7), free values and NaN results (40 R88), responding (30 R70), and raising an error, which is this
block's one form of exception (60 R165 to R176). There is no return from an error, because nothing was entered
(60 R176). -/

namespace Sys2Proof.Machine

/-- `MemRead(SPACE, k)` (00 R8). -/
def Memory.read : Memory → Nat → Word
  | [], _ => posZero
  | (j, v) :: rest, k => if j = k then v else Memory.read rest k

/-- `MemWrite(SPACE, k, v)` (00 R8), keeping the canonical form: a word `F(+0.0)` is not listed. -/
def Memory.write : Memory → Nat → Word → Memory
  | [], k, v => if v = posZero then [] else [(k, v)]
  | (j, u) :: rest, k, v =>
    if k < j then (if v = posZero then (j, u) :: rest else (k, v) :: (j, u) :: rest)
    else if k = j then (if v = posZero then rest else (k, v) :: rest)
    else (j, u) :: Memory.write rest k v

/-- The floor modulo `a - n * floor(a / n)` for `n > 0` (00 R7, 42 R111). -/
def floorMod (a : Int) (n : Nat) : Nat := (a.fmod n).toNat

/-- The NaN an operation returns: the one fixed by `NAN_RESULT`, or the quiet NaN of the free value drawn for that
operation (40 R88). -/
def nanWord (r : NanResult) (free : Word) : Word :=
  match r with
  | .anyQuiet => quietNaN free
  | .fixed w => w

/-- The result word of an arithmetic operation that draws the `k`-th free value from here on (40 R88, log 7). -/
def Engine.resolve (e : Engine) (k : Nat) (r : Option Word) : Word :=
  r.getD (nanWord e.config.nanResult (Config.freeWord (e.draws + k)))

/-- What a PROCESS works on in state `s` with instance `d`. -/
def State.engine (s : State) (d : DspState) : Engine where
  config := s.config
  inBuf := s.inBuf
  inst := d
  work := s.work
  out := s.out
  draws := s.draws

/-- The state with what a PROCESS has written put back: the instance, the working registers, OUT and the draw
counter. -/
def State.commit (s : State) (e : Engine) : State :=
  { s with inst := some e.inst, work := e.work, out := e.out, draws := e.draws }

/-- The state with its instance replaced: made, changed or, with `none`, gone (10 R11, R33). -/
def State.withInst (s : State) (inst : Option DspState) : State := { s with inst := inst }

/-- The state with `n` more free values drawn (log 7). -/
def State.drew (s : State) (n : Nat) : State := { s with draws := s.draws + n }

/-- The number of a status (30 R71). -/
def Status.code : Status → BitVec 8
  | .ok => 0x00#8
  | .errOutOfMemory => 0x01#8
  | .errInvalidParam => 0x02#8
  | .errEmptyBuffer => 0x03#8
  | .errIllegalCommand => 0x04#8
  | .errChannelMismatch => 0x05#8
  | .errNoInstance => 0x06#8
  | .errCounter => 0x07#8
  | .errFaulted => 0x08#8

/-- The statuses that set the sticky `fault` (30 R71 column "sticky", 10 R16). -/
def Status.setsFault : Status → Bool
  | .errNoInstance => true
  | .errCounter => true
  | .ok => false
  | .errOutOfMemory => false
  | .errInvalidParam => false
  | .errEmptyBuffer => false
  | .errIllegalCommand => false
  | .errChannelMismatch => false
  | .errFaulted => false

/-- The 72 bits of a response: `STATUS` 71:64, `D0` 63:32, `D1` 31:0 (30 R70). -/
def Response.bits (r : Response) : ResponseWord := r.status.code ++ r.d0 ++ r.d1

/-- The responses a port has returned, newest first. -/
def State.responses (s : State) : Port → List Response
  | .c => s.rspC
  | .p => s.rspP

/-- `respond(status, d0, d1)`: the port of the current command returns one response record (00 R8, 30 R70). -/
def State.respond (s : State) (status : Status) (d0 d1 : Word) : State :=
  match s.port with
  | .c => { s with rspC := ⟨status, d0, d1⟩ :: s.rspC }
  | .p => { s with rspP := ⟨status, d0, d1⟩ :: s.rspP }

/-- An error: the response carries its status and zero data words (60 R174), `ERR_NO_INSTANCE` and `ERR_COUNTER`
set `fault`, and nothing else changes (60 R175). -/
def State.raise (s : State) (e : Status) : State :=
  { s.respond e 0#32 0#32 with fault := s.fault || e.setsFault }

end Sys2Proof.Machine
end

