-- ==== Sys2Proof/Machine/Operands.lean ====
section
/-! DEFINITION. The operand forms of the commands: the parameter index spaces (spec 10 R21, 44 R150) and the words
of the IN and OUT spaces (20 R44, 43 R127, R129). -/

namespace Sys2Proof.Machine

/-- GETB accepts only index 0 (44 R150). -/
def blobIndexValid (index : Nat) : Bool := index == 0

/-- SETF and GETF accept only index 1 (44 R150). -/
def floatIndexValid (index : Nat) : Bool := index == 1

/-- The position of sample `(s, c)` in a buffer of `channels` interleaved channels (20 R44). -/
def sampleIndex (channels s c : Nat) : Nat := s * channels + c

/-- `in[k]`: the host's word; a word the host has not supplied is a free value (20 R50, 70 R201, log 11). -/
def Engine.inWord (e : Engine) (k : Nat) : Word :=
  match e.inBuf[k]? with
  | some v => v
  | none => Config.freeWord e.draws

/-- `out[k] <- v` (43 R129). -/
def Engine.storeOut (e : Engine) (k : Nat) (v : Word) : Engine := { e with out := Memory.write e.out k v }

/-- OUT after a PROCESS of `n` OUT words was abandoned: words 0 to `n - 1` are any value (70 R191, log 14). -/
def unspecifiedOut (out : Memory) (draws n : Nat) : Memory :=
  Nat.fold n (fun k _ m => Memory.write m k (Config.freeWord (draws + k))) out

end Sys2Proof.Machine
end

