-- ==== Sys2Proof/Machine/Flags.lean ====
section
/-! DEFINITION. The status bits. The block has no arithmetic flags, condition codes or predicates (spec 10 R15,
40 R90); its only status bits are `alive` (10 R11) and `fault` (10 R16). The checks of them that begin every
command stand here. -/

namespace Sys2Proof.Machine

/-- `alive`: the block holds an instance (10 R11). -/
def State.alive (s : State) : Bool := s.inst.isSome

/-- The first two checks of every command (60 R170 orders 1 and 2): `fault`, then the illegal word. A command that
decoded is illegal only on a port that does not accept it (30 R69 c). -/
def State.entryCheck (s : State) (i : Instr) : Option Status :=
  if s.fault then some .errFaulted
  else if i.acceptedOn s.port then none
  else some .errIllegalCommand

/-- The answer to a word that decodes to no command: `ERR_FAULTED` outranks `ERR_ILLEGAL_COMMAND` (60 R170). -/
def State.answerIllegal (s : State) : State :=
  s.raise (if s.fault then .errFaulted else .errIllegalCommand)

end Sys2Proof.Machine
end

