-- ==== Sys2Proof/Machine/Lifecycle.lean ====
section
/-! DEFINITION. The lifecycle commands CREATE and RELEASE (spec 44 R145, R146). -/

namespace Sys2Proof.Machine

/-- The instance a CREATE makes (10 R35): `ring[k] <- F(+0.0)` for every word, so no word is listed; `volumeLinear`
and `channelsField` are unspecified and take the free values `n` and `n + 1` (log 6). -/
def newInstance (blockSize n : Nat) : DspState where
  blockSize := BitVec.ofNat 32 blockSize
  capacity := BitVec.ofNat 32 (Config.maxch * blockSize)
  sampleCount := blockSize
  speedPercent := Config.speedDefault
  volumeLinear := Config.freeWord n
  channelsField := Config.freeWord (n + 1)
  ring := []

/-- CREATE (44 R145). -/
def execCreate (blockSize : Nat) (s : State) : Host.Outcome State Fault Refusal :=
  .next <|
    match s.entryCheck (.create blockSize) with
    | some e => s.raise e
    | none =>
      if s.alive then s.raise .errOutOfMemory
      else if Config.maxch * blockSize > s.config.ringWords then s.raise .errOutOfMemory
      else ((s.withInst (some (newInstance blockSize s.draws))).drew 2).respond .ok 0#32 0#32

/-- RELEASE (44 R146): the instance registers and the ring then hold no value (10 R36). -/
def execRelease (s : State) : Host.Outcome State Fault Refusal :=
  .next <|
    match s.entryCheck .release with
    | some e => s.raise e
    | none =>
      match s.inst with
      | none => s.raise .errNoInstance
      | some _ => (s.withInst none).respond .ok 0#32 0#32

end Sys2Proof.Machine
end

