-- ==== Sys2Proof/Machine/Parameters.lean ====
section
/-! DEFINITION. The parameter commands GETB, SETF and GETF (spec 44 R147, R148, R149). -/

namespace Sys2Proof.Machine

/-- The byte length of the wave-data blob, `8 * blockSize`: `blockSize * 2` words of 4 bytes (44 R147). -/
def blobLength (d : DspState) : Word := BitVec.ofNat 32 (8 * d.blockSize.toNat)

/-- GETB (44 R147). -/
def execGetb (index : Nat) (s : State) : Host.Outcome State Fault Refusal :=
  .next <|
    match s.entryCheck (.getb index) with
    | some e => s.raise e
    | none =>
      match s.inst with
      | none => s.raise .errNoInstance
      | some d =>
        if blobIndexValid index then s.respond .ok s.config.stateBase (blobLength d)
        else s.raise .errInvalidParam

/-- SETF (44 R148): the word is stored bit for bit, with no clamp and no check. -/
def execSetf (index : Nat) (value : Word) (s : State) : Host.Outcome State Fault Refusal :=
  .next <|
    match s.entryCheck (.setf index value) with
    | some e => s.raise e
    | none =>
      match s.inst with
      | none => s.raise .errNoInstance
      | some d =>
        if floatIndexValid index then
          (s.withInst (some { d with speedPercent := value })).respond .ok 0#32 0#32
        else s.raise .errInvalidParam

/-- GETF (44 R149). -/
def execGetf (index : Nat) (s : State) : Host.Outcome State Fault Refusal :=
  .next <|
    match s.entryCheck (.getf index) with
    | some e => s.raise e
    | none =>
      match s.inst with
      | none => s.raise .errNoInstance
      | some d =>
        if floatIndexValid index then s.respond .ok d.speedPercent 0#32
        else s.raise .errInvalidParam

end Sys2Proof.Machine
end

