-- ==== Sys2Proof/Machine/Numerics.lean ====
section
/-! DEFINITION. The parameter `NUMERICS` (spec 00 R6, 40): the three functions a configuration gives. -/

namespace Sys2Proof.Machine

/-- The three functions that are the only arithmetic on samples and coefficients; `none` is "a NaN" (40 R88). -/
structure Numerics where
  fadd32 : Word → Word → Option Word
  fsub32 : Word → Word → Option Word
  fmul32 : Word → Word → Option Word

/-- The function a table gives: its own results, and `f` at every other operand pair (log 8). -/
def tableFunction (t : OpTable) (f : Word → Word → Option Word) (a b : Word) : Option Word :=
  (t.lookup (a, b)).getD (f a b)

/-- `NUMERICS` of a configuration: by default the functions of file 40 (00 R6). -/
def numerics (cfg : Config) : Numerics where
  fadd32 := tableFunction cfg.numerics.fadd32 fadd32
  fsub32 := tableFunction cfg.numerics.fsub32 fsub32
  fmul32 := tableFunction cfg.numerics.fmul32 fmul32

end Sys2Proof.Machine
end

