-- ==== Sys2Proof/Machine/Interp.lean ====
section
/-! DEFINITION. INTERP, the filter interpolator (spec 41 R102). -/

namespace Sys2Proof.Machine

/-- `fadd32(fmul32(filterLow[i], omx), fmul32(filterHigh[i], xs))`, three roundings (41 R102, 40 R91); the
operations draw the free values `k`, `k + 1`, `k + 2`. -/
def Engine.blend (e : Engine) (k : Nat) (low high xs omx : Word) : Word :=
  e.resolve (k + 2) ((numerics e.config).fadd32
    (e.resolve k ((numerics e.config).fmul32 low omx))
    (e.resolve (k + 1) ((numerics e.config).fmul32 high xs)))

/-- INTERP: samples `speedPercent` once, forms `1 - x` once, and writes all 21 words of `eff` (41 R102, R107,
R108). It has 64 operations. -/
def interp (e : Engine) : Engine :=
  let xs := e.inst.speedPercent
  let omx := e.resolve 0 ((numerics e.config).fsub32 floatOne xs)
  { e with
    work := { e.work with
      xs := xs
      omx := omx
      eff := Vector.ofFn fun i => e.blend (1 + 3 * i.val) e.config.coefLow[i] e.config.coefHigh[i] xs omx }
    draws := e.draws + 64 }

end Sys2Proof.Machine
end

