-- ==== Sys2Proof/Machine/Ring.lean ====
section
/-! DEFINITION. The circular buffer engine: RWRITE, RREAD and ADVANCE (spec 42 R113, R114, R116). Index expressions
are exact integers, reduced once at the end by the floor modulo (42 R111). -/

namespace Sys2Proof.Machine

/-- `fmod((sampleCount - t) * nch + c, capacity)` (42 R114). -/
def ringIndex (d : DspState) (nch c t : Nat) : Nat :=
  floorMod (((d.sampleCount : Int) - (t : Int)) * (nch : Int) + (c : Int)) d.capacity.toNat

/-- `fmod(sampleCount * nch + c, capacity)` (42 R113). -/
def writeIndex (d : DspState) (nch c : Nat) : Nat :=
  floorMod ((d.sampleCount : Int) * (nch : Int) + (c : Int)) d.capacity.toNat

/-- RWRITE: `ring[widx] <- value`, the word stored as it is (42 R113). -/
def rwrite (d : DspState) (nch c : Nat) (value : Word) : DspState :=
  { d with ring := Memory.write d.ring (writeIndex d nch c) value }

/-- RREAD: `ring[ridx]` (42 R114). -/
def rread (d : DspState) (nch c t : Nat) : Word := Memory.read d.ring (ringIndex d nch c t)

/-- ADVANCE: `sampleCount <- sampleCount + 1` (42 R116). -/
def advance (d : DspState) : DspState := { d with sampleCount := d.sampleCount + 1 }

end Sys2Proof.Machine
end

