-- ==== Sys2Proof/Machine/Mac.lean ====
section
/-! DEFINITION. MAC, the convolution of one sample of one channel (spec 43 R128). -/

namespace Sys2Proof.Machine

/-- `fadd32(acc, fmul32(RREAD(c, i), eff[i]))`, two roundings (43 R128, 40 R91); the operations draw the free values
`k` and `k + 1`. -/
def tapSum (e : Engine) (nch c : Nat) (i : Fin Config.taps) (k : Nat) (acc : Word) : Word :=
  e.resolve (k + 1) ((numerics e.config).fadd32 acc (e.resolve k ((numerics e.config).fmul32 (rread e.inst nch c i.val) e.work.eff[i])))

/-- MAC: `acc <- F(+0.0)`, then the 21 taps in ascending order (43 R128). It has 42 operations. -/
def mac (nch c : Nat) (e : Engine) : Engine :=
  { e with
    work := { e.work with
      acc := Nat.fold Config.taps (fun i h acc => tapSum e nch c ⟨i, h⟩ (2 * i) acc) posZero }
    draws := e.draws + 42 }

/-- `acc <- F(+0.0)`, the first line of MAC on its own (43 R128). -/
def macStart (e : Engine) : Engine := { e with work := { e.work with acc := posZero } }

/-- One tap of MAC on its own (43 R128). -/
def macTap (nch c : Nat) (i : Fin Config.taps) (e : Engine) : Engine :=
  { e with work := { e.work with acc := tapSum e nch c i 0 e.work.acc }, draws := e.draws + 2 }

end Sys2Proof.Machine
end

