-- ==== Sys2Proof/Machine/Process.lean ====
section
/-! DEFINITION. The PROCESS command (spec 43 R125): its checks, INTERP, and the three nested counted loops (43 R126). -/

namespace Sys2Proof.Machine

/-- The first part of a sample: `v <- in[s * inChannels + c]`, read once (43 R127), then `RWRITE(c, v)`. -/
def fetchAndWrite (o : ProcessOperands) (s c : Nat) (e : Engine) : Engine :=
  let v := e.inWord (sampleIndex o.inChannels s c)
  { e with inst := rwrite e.inst o.outChannels c v, draws := e.draws + 1 }

/-- The last part of a sample: `out[s * outChannels + c] <- acc` (43 R129). -/
def storeSample (o : ProcessOperands) (s c : Nat) (e : Engine) : Engine :=
  e.storeOut (sampleIndex o.outChannels s c) e.work.acc

/-- One sample of one channel: RWRITE, MAC, the store to OUT (43 R125 step 8). -/
def processSample (o : ProcessOperands) (s c : Nat) (e : Engine) : Engine :=
  storeSample o s c (mac o.outChannels c (fetchAndWrite o s c e))

/-- ADVANCE on the engine (42 R116). -/
def advanceEngine (e : Engine) : Engine := { e with inst := advance e.inst }

/-- One frame: its channels in ascending order, then one ADVANCE (43 R126). -/
def processFrame (o : ProcessOperands) (s : Nat) (e : Engine) : Engine :=
  advanceEngine (Nat.fold o.outChannels (fun c _ => processSample o s c) e)

/-- The frames in ascending order (43 R126). -/
def processFrames (o : ProcessOperands) (e : Engine) : Engine :=
  Nat.fold o.frames (fun s _ => processFrame o s) e

/-- Steps 7 and 8 of PROCESS (43 R125). -/
def processBlock (o : ProcessOperands) (e : Engine) : Engine := processFrames o (interp e)

/-- The checks of PROCESS after the common two, on a living instance (43 R125 steps 4 to 6). -/
def processCheck (cfg : Config) (o : ProcessOperands) (d : DspState) : Option Status :=
  if o.inChannels ≠ o.outChannels then some .errChannelMismatch
  else if d.capacity = 0#32 then some .errEmptyBuffer
  else if d.sampleCount + o.frames > cfg.maxSampleCount then some .errCounter
  else none

/-- PROCESS (43 R125). -/
def execProcess (frames inChannels outChannels : Nat) (s : State) : Host.Outcome State Fault Refusal :=
  .next <|
    match s.entryCheck (.process frames inChannels outChannels) with
    | some e => s.raise e
    | none =>
      match s.inst with
      | none => s.raise .errNoInstance
      | some d =>
        match processCheck s.config ⟨frames, inChannels, outChannels⟩ d with
        | some e => s.raise e
        | none => (s.commit (processBlock ⟨frames, inChannels, outChannels⟩ (s.engine d))).respond .ok 0#32 0#32

end Sys2Proof.Machine
end

