-- ==== Sys2Proof/Machine/Dispatch.lean ====
section
/-! DEFINITION. The dispatch: one arm per command (spec 30 R68). -/

namespace Sys2Proof.Machine

def exec (i : Instr) (s : State) : Host.Outcome State Fault Refusal :=
  match i with
  | .create blockSize => Sys2Proof.Machine.execCreate blockSize s
  | .process frames inChannels outChannels => Sys2Proof.Machine.execProcess frames inChannels outChannels s
  | .getb index => Sys2Proof.Machine.execGetb index s
  | .setf index value => Sys2Proof.Machine.execSetf index value s
  | .getf index => Sys2Proof.Machine.execGetf index s
  | .release => Sys2Proof.Machine.execRelease s

end Sys2Proof.Machine
end

