-- ==== Sys2Proof/Machine/Fetch.lean ====
section
/-! DEFINITION. How a command word reaches `exec`, and hardware reset. The block has no program counter and fetches no
instructions (spec 10 R13): a port is presented with a word (30 R60). -/

namespace Sys2Proof.Machine

/-- A word on the C-port is the current command, and its IN words are the contents of IN (10 R29). -/
def State.acceptC (s : State) (inWords : List Word) : State := { s with port := .c, inBuf := inWords }

/-- A word on the P-port is the current command; IN is untouched (20 R51). -/
def State.acceptP (s : State) : State := { s with port := .p }

/-- The block performs the word the current port presents: the decoded command, or the answer to an illegal word
(30 R69). -/
def performWord (w : CommandWord) (s : State) : Host.Outcome State Fault Refusal :=
  match decode w with
  | .ok i => exec i s
  | .error _ => .next s.answerIllegal

/-- Hardware reset of a block that may have run: the values of 10 R34; the banks, the host's spaces, the responses
already returned and the inputs to come are not the block's to change (70 R190). The unspecified working registers
take the values named for them (log 5). -/
def State.hardwareReset (s : State) : State :=
  { s with fault := false, inst := none, seq := .idle, work := Working.reset }

/-- How many OUT words a C-port word in progress may have written: all those of a PROCESS (70 R191, log 14). -/
def outWordsAtRisk (w : CommandWord) : Nat :=
  match decode w with
  | .ok (.process frames _ outChannels) => frames * outChannels
  | .ok (.create _) => 0
  | .ok (.getb _) => 0
  | .ok (.setf _ _) => 0
  | .ok (.getf _) => 0
  | .ok .release => 0
  | .error _ => 0

/-- Reset during the C-port command `w`: it is abandoned without a response, the state is that of a reset, and the
OUT words of an abandoned PROCESS are unspecified (70 R191). DESIGN CHOICE (log 14): 20 R52 and 70 R191 do not say
whether `w` may have taken effect before the reset, for a P-port command answered before the reset to see (an instance
made or released, a new speed, a `fault` set); here an abandoned word has no effect that any command sees. -/
def State.resetDuring (s : State) (w : CommandWord) : State :=
  { s.hardwareReset with
    out := unspecifiedOut s.out s.draws (outWordsAtRisk w)
    draws := s.draws + outWordsAtRisk w }

/-- One input of the outside world takes effect (20 R52). A P-port word always returns its response. DESIGN CHOICE
(log 14): 20 R52 and 70 R191 do not say whether a P-port command that reset abandons may have taken effect, for a
C-port command answered before the reset to see (a speed that a PROCESS samples, a `fault` set); here it has no effect
that any command sees, so the list of inputs does not hold it. -/
def performEvent (ev : HostEvent) (s : State) : Host.Outcome State Fault Refusal :=
  match ev with
  | .commandC w inWords => performWord w (s.acceptC inWords)
  | .commandP w => performWord w s.acceptP
  | .reset => .next s.hardwareReset
  | .resetDuring w => .next (s.resetDuring w)

/-- The 64-bit word whose bits below `nbits` are those of `w` and whose other bits are 0. -/
def tableWord (nbits w : Nat) : CommandWord := BitVec.ofNat 64 (w % 2 ^ nbits)

end Sys2Proof.Machine
end

