-- ==== Sys2Proof/Machine/Step.lean ====
section
/-! DEFINITION. One step: the next input takes effect; a block with no input is idle and keeps all its state (spec
20 R52, 60 R185, 70 R190). -/

namespace Sys2Proof.Machine

/-- One step of the machine. -/
def step (s : State) : Host.Outcome State Fault Refusal :=
  match s.inputs with
  | [] => .next s
  | ev :: rest => performEvent ev { s with inputs := rest }

/-- `s` with the word presented on the C-port as its very next input, with no IN words (log 3). -/
def State.withFetchWord (s : State) (nbits w : Nat) : State :=
  { s with inputs := .commandC (tableWord nbits w) [] :: s.inputs }

end Sys2Proof.Machine
end

