-- ==== Sys2Proof/Machine/Assembler.lean ====
section
/-! DEFINITION. The textual form of a command (spec 30 R72) and the pseudo-instructions (30 R73): a line is an optional
port `C:` or `P:`, a mnemonic, and operands separated by commas; `;` starts a comment. -/

namespace Sys2Proof.Machine

/-- A command and the port it is for. -/
structure AsmCommand where
  port : Port
  command : Instr
deriving DecidableEq, Repr

/-- The text without the blanks at its start. -/
def dropBlanks (cs : List Char) : List Char := cs.dropWhile (· == ' ')

/-- The text without the blanks at either end. -/
def trimBlanks (cs : List Char) : List Char := (dropBlanks (dropBlanks cs).reverse).reverse

/-- The pieces of a text between the characters `sep`. -/
def splitAtChar (sep : Char) : List Char → List (List Char)
  | [] => [[]]
  | c :: cs =>
    match splitAtChar sep cs with
    | [] => [[c]]
    | piece :: rest => if c = sep then [] :: piece :: rest else (c :: piece) :: rest

/-- A decimal digit. -/
def decimalDigit (c : Char) : Option Nat :=
  if '0'.toNat ≤ c.toNat ∧ c.toNat ≤ '9'.toNat then some (c.toNat - '0'.toNat) else none

/-- A hexadecimal digit, in capitals or small letters. -/
def hexDigit (c : Char) : Option Nat :=
  if 'a'.toNat ≤ c.toNat ∧ c.toNat ≤ 'f'.toNat then some (c.toNat - 'a'.toNat + 10)
  else if 'A'.toNat ≤ c.toNat ∧ c.toNat ≤ 'F'.toNat then some (c.toNat - 'A'.toNat + 10)
  else decimalDigit c

/-- The number whose digits in base `base` are the text, read on from `acc`. -/
def digitsFrom (base : Nat) (digit : Char → Option Nat) (acc : Nat) : List Char → Option Nat
  | [] => some acc
  | c :: cs =>
    match digit c with
    | some d => digitsFrom base digit (acc * base + d) cs
    | none => none

/-- The digits of a constant without the separators `_`. DESIGN CHOICE (log 19): 00 R7 makes `_` a visual separator in
the spec's own literals, 30 R72 does not say whether an operand may hold it; it may, anywhere among the digits, and is
no digit. -/
def digitsOf (cs : List Char) : List Char := cs.filter (· ≠ '_')

/-- A constant of one or more digits. -/
def asmNumber (base : Nat) (digit : Char → Option Nat) (cs : List Char) : Option Nat :=
  match digitsOf cs with
  | [] => none
  | d :: ds => digitsFrom base digit 0 (d :: ds)

/-- An integer operand: decimal, or `0x` and hexadecimal digits (30 R72). -/
def asmInteger (cs : List Char) : Option Nat :=
  match cs with
  | '0' :: 'x' :: rest => asmNumber 16 hexDigit rest
  | _ => asmNumber 10 decimalDigit cs

/-- The binary32 word nearest to `± (whole and fraction digits)`, ties to even (30 R72). DESIGN CHOICE (log 19):
30 R72 does not give the form of a decimal literal; here it is one or more digits, and optionally a point with at least
one digit on each side, so `.5` and `1.` are refused, and there is no exponent. -/
def asmDecimal (negative : Bool) (cs : List Char) : Option Word :=
  match splitAtChar '.' cs with
  | [whole] => (asmNumber 10 decimalDigit whole).map fun n => round32 negative (n * 2 ^ 149) 1
  | [whole, frac] =>
    if digitsOf whole = [] ∨ digitsOf frac = [] then none
    else (asmNumber 10 decimalDigit (whole ++ frac)).map fun n =>
      round32 negative (n * 2 ^ 149) (10 ^ (digitsOf frac).length)
  | _ => none

/-- A `value` operand: `0x` and 8 hexadecimal digits, separators not counted (log 19), or a decimal literal
(30 R72). DESIGN CHOICE (log 19): its one sign is a `-` directly before the digits; a leading `+` is refused. -/
def asmValue (cs : List Char) : Option Word :=
  match cs with
  | '0' :: 'x' :: rest =>
    if (digitsOf rest).length = 8 then (asmNumber 16 hexDigit rest).map (BitVec.ofNat 32) else none
  | '-' :: rest => asmDecimal true rest
  | _ => asmDecimal false cs

/-- The command of a mnemonic and its operands; an operand that its field cannot hold has no command (30 R72, R73). -/
def asmInstr (mnemonic : List Char) (operands : List (List Char)) : Option Instr :=
  let command : Option Instr :=
    match String.ofList mnemonic, operands with
    | "CREATE", [b] => (asmInteger b).map .create
    | "PROCESS", [f, i, o] =>
      match asmInteger f, asmInteger i, asmInteger o with
      | some f, some i, some o => some (.process f i o)
      | _, _, _ => none
    | "GETB", [x] => (asmInteger x).map .getb
    | "SETF", [x, v] =>
      match asmInteger x, asmValue v with
      | some x, some v => some (.setf x v)
      | _, _ => none
    | "GETF", [x] => (asmInteger x).map .getf
    | "RELEASE", [] => some .release
    | "SETSPEED", [v] => (asmValue v).map Instr.setspeed
    | "GETSPEED", [] => some Instr.getspeed
    | "GETWAVE", [] => some Instr.getwave
    | _, _ => none
  command.filter Instr.wellFormed

/-- The port a line names, C by default, and the rest of the line (30 R72). -/
def asmPort (cs : List Char) : Port × List Char :=
  match cs with
  | 'C' :: ':' :: rest => (.c, dropBlanks rest)
  | 'P' :: ':' :: rest => (.p, dropBlanks rest)
  | _ => (.c, cs)

/-- One line of assembler text, its comment dropped, as the command it stands for (30 R72). -/
def assembleLine (line : String) : Option AsmCommand :=
  let text := trimBlanks (line.toList.takeWhile (· ≠ ';'))
  let (port, body) := asmPort text
  let mnemonic := body.takeWhile (· ≠ ' ')
  let rest := dropBlanks (body.dropWhile (· ≠ ' '))
  let operands := if rest = [] then [] else (splitAtChar ',' rest).map trimBlanks
  (asmInstr mnemonic operands).map fun i => ⟨port, i⟩

end Sys2Proof.Machine
end

