-- ==== Sys2Proof/Machine/Sequencer.lean ====
section
/-! DEFINITION. The sequencer: the position `seq` and its advance, one micro-operation a tick (spec 10 R13, 43 R126).
`step` runs a PROCESS as one step, as 43 R137 allows, so `seq` is IDLE between steps; this file says what happens
inside that step, so that statements can be made about it (20 R52, R48). -/

namespace Sys2Proof.Machine

/-- The position at the start of frame `s`: its first channel, its ADVANCE when it has no channel, or IDLE after the
last frame (10 R13, 43 R126). DESIGN CHOICE (log 13): a component that no loop of 43 R126 gives at a phase is 0 there,
so `i` in WRITE, and `c` and `i` in ADVANCE, also when there is no channel. -/
def frameStart (o : ProcessOperands) (s : Nat) : Seq :=
  if s < o.frames then
    (if 0 < o.outChannels then .busy .write s 0 0 else .busy .advance s 0 0)
  else .idle

/-- One tick: the micro-operation at the position, and the next position, `i` fastest, then `c`, then `s`
(10 R13). The components that no loop gives are 0 (DESIGN CHOICE, log 13) and no tick reads them. -/
def microStep (o : ProcessOperands) (q : Seq) (e : Engine) : Seq × Engine :=
  match q with
  | .idle => (.idle, e)
  | .busy .interp _ _ _ => (frameStart o 0, interp e)
  | .busy .write s c _ => (.busy .mac s c 0, macStart (fetchAndWrite o s c e))
  | .busy .mac s c i =>
    if h : i < Config.taps then
      let e' := macTap o.outChannels c ⟨i, h⟩ e
      if i + 1 < Config.taps then (.busy .mac s c (i + 1), e')
      else if c + 1 < o.outChannels then (.busy .write s (c + 1) 0, storeSample o s c e')
      else (.busy .advance s 0 0, storeSample o s c e')
    else (.idle, e)
  | .busy .advance s _ _ => (frameStart o (s + 1), advanceEngine e)

/-- The block in the middle of a PROCESS, one tick further; a block without an instance has nothing to run. -/
def State.tick (o : ProcessOperands) (s : State) : State :=
  match s.inst with
  | none => s
  | some d =>
    let r := microStep o s.seq (s.engine d)
    { s.commit r.2 with seq := r.1 }

/-- The block at step 7 of an accepted PROCESS, before its INTERP (43 R125). INTERP stands in no loop: its `s`, `c` and
`i` are 0, also when there is no frame (DESIGN CHOICE, log 13). -/
def State.startProcess (s : State) : State := { s with seq := .busy .interp 0 0 0 }

/-- The ticks of a PROCESS: one INTERP, and in each frame one RWRITE and 21 taps per channel and one ADVANCE
(43 R126). -/
def processTicks (o : ProcessOperands) : Nat := 1 + o.frames * (o.outChannels * (1 + Config.taps) + 1)

end Sys2Proof.Machine
end

