-- ==== Sys2Proof/Safety.lean ====
section
/-! DEFINITION. What claims about the block are stated in: the invariant of its states, what a safe run is (spec 60
R173, 70 R207), and the merges of the two ports' command sequences (20 R52). -/

namespace Sys2Proof

open Machine

/-- The facts about a living instance: `capacity = 8 * blockSize` (10 R18) within the ring RAM (20 R43), the pointer
between its start value and its end (10 R14), and a ring in canonical form with no word at or above `capacity`
(10 R28). -/
def DspInv (cfg : Config) (d : DspState) : Prop :=
  d.capacity.toNat = 8 * d.blockSize.toNat ∧ d.capacity.toNat ≤ cfg.ringWords ∧
  d.blockSize.toNat ≤ d.sampleCount ∧ d.sampleCount ≤ cfg.maxSampleCount ∧
  Memory.wf d.ring = true ∧ ∀ cell ∈ d.ring, cell.1 < d.capacity.toNat

/-- The invariant of the block between steps: legal parameters (00 R6), the sequencer idle (10 R13), OUT in canonical
form, and the facts about the instance if there is one. -/
def StateInv (s : State) : Prop :=
  s.config.wf = true ∧ s.seq = .idle ∧ Memory.wf s.out = true ∧ ∀ d, s.inst = some d → DspInv s.config d

/-- A state in which the sticky fault is not set: the premise of every claim about a run (60 R173, 70 R207). -/
def NotFaulted (s : State) : Prop := s.fault = false

/-- `n` steps from `s` lead to `t`. -/
def RunsTo (s : State) (n : Nat) (t : State) : Prop := core.run n s = .next t

/-- A run of `n` steps that ends well: it is not faulted at its end, and so, since only reset clears `fault`, never
since the last reset in it (70 R207). -/
def EndsWell (s : State) (n : Nat) : Prop := ∃ t, RunsTo s n t ∧ NotFaulted t

/-- The inputs that arrive on the C-port, and the resets. -/
def isCInput : HostEvent → Bool
  | .commandC _ _ => true
  | .commandP _ => false
  | .reset => true
  | .resetDuring _ => true

/-- `events` is a merge of the C-port's inputs `cs` and the P-port's inputs `ps` that respects both port orders
(20 R51, R52). A claim about the block quantifies over every merge. -/
def IsMerge (cs ps events : List HostEvent) : Prop :=
  events.filter isCInput = cs ∧ (events.filter fun ev => !isCInput ev) = ps

end Sys2Proof
end

