-- ==== Sys2Proof/Certificates/Slice0/Obligations.lean ====
section
/-! DEFINITION. The statements about FIRCB-CORE, and the spec-side notions they are written in. -/

namespace Sys2Proof.Claims

open Sys2Proof Sys2Proof.Machine

/-- The word is illegal on the port (spec 30 R69): no row of the opcode map matches it, that is its opcode is reserved
or a bit its format marks zero is 1; or it arrives on the P-port and its opcode is not 0x4 or 0x5. -/
def IllegalOn (q : Port) (w : CommandWord) : Prop :=
  (∀ r ∈ opcodeTable, r.matches w = false) ∨ (q = .p ∧ w.extractLsb' 60 4 ≠ 4#4 ∧ w.extractLsb' 60 4 ≠ 5#4)

/-- The priority table of 60 R170, row by row, for a word that decodes: the first condition that applies. -/
def priorityStatus (i : Instr) (s : State) : Status :=
  if s.fault = true then .errFaulted
  else if s.port = .p ∧ i.mnemonic ≠ "SETF" ∧ i.mnemonic ≠ "GETF" then .errIllegalCommand
  else
    match i, s.inst with
    | .create _, some _ => .errOutOfMemory
    | .create b, none => if 8 * b > s.config.ringWords then .errOutOfMemory else .ok
    | .process _ _ _, none => .errNoInstance
    | .process f i o, some d =>
      if i ≠ o then .errChannelMismatch
      else if d.capacity.toNat = 0 then .errEmptyBuffer
      else if d.sampleCount + f > 2 ^ s.config.scw - 1 then .errCounter
      else .ok
    | .getb _, none => .errNoInstance
    | .getb x, some _ => if x ≠ 0 then .errInvalidParam else .ok
    | .setf _ _, none => .errNoInstance
    | .setf x _, some _ => if x ≠ 1 then .errInvalidParam else .ok
    | .getf _, none => .errNoInstance
    | .getf x, some _ => if x ≠ 1 then .errInvalidParam else .ok
    | .release, none => .errNoInstance
    | .release, some _ => .ok

/-- The command answers exactly one response, on its own port, with status `st`. -/
def Answers (i : Instr) (s : State) (st : Status) : Prop :=
  ∃ t r, exec i s = .next t ∧ t.responses s.port = r :: s.responses s.port ∧ r.status = st

/-- A PROCESS of `f` frames at stride `n` passes all its checks (43 R125 steps 1 to 6). -/
def ProcessAccepted (s : State) (d : DspState) (f : Nat) : Prop :=
  s.fault = false ∧ s.port = .c ∧ s.inst = some d ∧ d.capacity ≠ 0#32 ∧
  d.sampleCount + f ≤ 2 ^ s.config.scw - 1

/-- The distance, over the denominator `den`, between the magnitude of the finite word with bits `b` and
`num / den` (both in units of 2^-149). -/
def roundingError (num den b : Nat) : Nat :=
  ((magnitude (BitVec.ofNat 32 b) : Int) * den - num).natAbs

/-- One PROCESS of a stream: its frames, the speed in force, and its IN words. -/
structure Block where
  frames : Nat
  speed : Word
  inWords : List Word

/-- The engine at the start of a block: the host's IN words are in place and the last SETF has stored the speed. -/
def startBlock (b : Block) (e : Engine) : Engine :=
  { e with inBuf := b.inWords, inst := { e.inst with speedPercent := b.speed } }

/-- A stream of PROCESSes at one stride `nch`, the first first. -/
def runBlocks (nch : Nat) (bs : List Block) (e : Engine) : Engine :=
  bs.foldl (fun e b => processBlock ⟨b.frames, nch, nch⟩ (startBlock b e)) e

/-- Every block has the `frames * nch` IN words its PROCESS reads (20 R50). -/
def BlocksSupplied (nch : Nat) (bs : List Block) : Prop := ∀ b ∈ bs, b.inWords.length = b.frames * nch

/-- The frames of a stream. -/
def totalFrames (bs : List Block) : Nat := (bs.map Block.frames).sum

/-- `x_c[m]`: the input sample of channel `c` at frame `m` of the stream, and `F(+0.0)` before the stream began
(43 R133). -/
def streamWord (nch : Nat) (bs : List Block) (c : Nat) (m : Int) : Word :=
  if m < 0 then posZero else (bs.flatMap Block.inWords).getD (m.toNat * nch + c) posZero

/-- The instance is as CREATE with block size `b` leaves it, as far as the ring engine reads it (10 R35). -/
def FreshRing (d : DspState) (b : Nat) : Prop :=
  d.sampleCount = b ∧ d.capacity.toNat = 8 * b ∧ Memory.wf d.ring = true ∧ ∀ k, Memory.read d.ring k = posZero

/-- The engine during frame `s` of a block, after the RWRITE of channel `c` and before its MAC (43 R126). -/
def duringFrame (o : ProcessOperands) (s c : Nat) (e : Engine) : Engine :=
  fetchAndWrite o s c
    (Nat.fold c (fun c' _ => processSample o s c')
      (Nat.fold s (fun s' _ => processFrame o s') e))

/-- A result word, a NaN being the one `NAN_RESULT` gives for the free value `k` (40 R88). -/
def resultWord (r : NanResult) (k : Nat) (v : Option Word) : Word := v.getD (nanWord r (Config.freeWord k))

/-- The sum of 43 R128 over samples `x 0 .. x 20` in the arithmetic of `NUMERICS`: ascending taps from `+0`, each
product and each partial sum an operation of its own; NaN results draw the free values from `k` on. -/
def convolution (cfg : Config) (k : Nat) (eff : Vector Word Config.taps) (x : Nat → Word) : Word :=
  Nat.fold Config.taps (fun i _ acc =>
    resultWord cfg.nanResult (k + 2 * i + 1) ((numerics cfg).fadd32 acc
      (resultWord cfg.nanResult (k + 2 * i) ((numerics cfg).fmul32 (x i) eff[i])))) posZero

/-- What the P-port's command `i` makes of the state, the C-port's command remaining the current one. -/
def afterPPort (i : Instr) (s : State) : State :=
  match exec i { s with port := .p } with
  | .next t => { t with port := s.port }
  | .fault _ => s
  | .refused _ => s

end Sys2Proof.Claims

open Sys2Proof Sys2Proof.Machine Sys2Proof.Claims

/-- 30 R61 to R68: no bit of an encoding is dropped. -/
def Obligations.DecodeOfEncode : Prop :=
  ∀ i : Instr, i.wellFormed = true → decode (encode i) = .ok i

/-- 30 R61 to R68: a word that is a command is the encoding of it, and its operands fit their fields. -/
def Obligations.EncodeOfDecode : Prop :=
  ∀ (w : CommandWord) (i : Instr), decode w = .ok i → i.wellFormed = true ∧ encode i = w

/-- 30 R68: a word is a row's command exactly when its fixed bits match, and no word is two rows' command. -/
def Obligations.DecodeAgreesWithOpcodeTable : Prop :=
  (∀ w : CommandWord, ∀ r ∈ opcodeTable,
    (r.matches w = true ↔ ∃ i, decode w = .ok i ∧ i.mnemonic = r.mnemonic)) ∧
  opcodeTable.Pairwise fun r r' => ∀ w : CommandWord, ¬(r.matches w = true ∧ r'.matches w = true)

/-- 30 R69: an illegal word is answered with no state change, and no other word is illegal. -/
def Obligations.IllegalWordsAreAnswered : Prop :=
  ∀ (s : State) (w : CommandWord),
    (IllegalOn s.port w →
      performWord w s = .next (s.respond (if s.fault then .errFaulted else .errIllegalCommand) 0#32 0#32)) ∧
    (¬IllegalOn s.port w → s.fault = false →
      ∃ t r, performWord w s = .next t ∧ t.responses s.port = r :: s.responses s.port ∧
        r.status ≠ .errIllegalCommand)

/-- 30 R74 and 95 E1, E11, E12: words written out from the formats decode to their commands. -/
def Obligations.ExampleWordsDecode : Prop :=
  decode 0x1000000000000100#64 = .ok (.create 256) ∧
  decode 0x2000010100000004#64 = .ok (.process 4 1 1) ∧
  decode 0x2000FF08FFFFFFFF#64 = .ok (.process 4294967295 255 8) ∧
  decode 0x3000000000000000#64 = .ok (.getb 0) ∧
  decode 0x4000FFFF7FC00001#64 = .ok (.setf 65535 0x7FC00001#32) ∧
  decode 0x5000000100000000#64 = .ok (.getf 1) ∧
  decode 0x6000000000000000#64 = .ok .release

/-- 20 R52, 30 R60: when the next input is a word that decodes, the step is that command on the port it came on; the
IN words are those the C-port host placed. -/
def Obligations.StepRunsDecodedCommand : Prop :=
  ∀ (s : State) (w : CommandWord) (rest : List HostEvent) (i : Instr), decode w = .ok i →
    (∀ ins, s.inputs = .commandC w ins :: rest →
      step s = exec i { s with inputs := rest, port := .c, inBuf := ins }) ∧
    (s.inputs = .commandP w :: rest → step s = exec i { s with inputs := rest, port := .p })

/-- 60 R165, 70 R206: every step goes on, and a step that takes a command returns exactly one response, on the port
the command came on. -/
def Obligations.EveryCommandIsAnsweredOnce : Prop :=
  ∀ s : State, ∃ t, step s = .next t ∧
    (∀ w ins rest, s.inputs = .commandC w ins :: rest →
      t.inputs = rest ∧ t.rspP = s.rspP ∧ ∃ r, t.rspC = r :: s.rspC) ∧
    (∀ w rest, s.inputs = .commandP w :: rest →
      t.inputs = rest ∧ t.rspC = s.rspC ∧ ∃ r, t.rspP = r :: s.rspP)

/-- 10 R34: what hardware reset leaves, and the parameters of 00 R6 that have a default. -/
def Obligations.ResetLeavesNoInstance : Prop :=
  State.reset.alive = false ∧ State.reset.fault = false ∧ State.reset.seq = .idle ∧
  State.reset.config.scw = 32 ∧ State.reset.config.stateBase = 0x00000000#32 ∧
  State.reset.config.nanResult = .anyQuiet ∧ State.reset.config.numerics = .file40

/-- The invariant of the block holds after reset. -/
def Obligations.ResetMeetsInvariant : Prop := StateInv State.reset

/-- 10 R13, R14, R18, R28, 20 R43: the invariant of the block is kept by every step. -/
def Obligations.StepKeepsInvariant : Prop :=
  ∀ s t : State, StateInv s → step s = .next t → StateInv t

/-- 70 R190: hardware reset, the only way to clear `fault`; the banks are unchanged, and a block that is presented
nothing waits. That OUT, which is the host's (10 R29), is kept across reset is the model's reading (log 12), and so is
that an idle block keeps all its state in every state, a faulted one too (60 R185, log 3). -/
def Obligations.HardwareResetRestarts : Prop :=
  (∀ (s : State) (rest : List HostEvent), s.inputs = .reset :: rest →
    ∃ t, step s = .next t ∧ t.alive = false ∧ t.fault = false ∧ t.seq = .idle ∧ t.inst = none ∧
      t.config = s.config ∧ t.inputs = rest ∧ t.rspC = s.rspC ∧ t.rspP = s.rspP ∧ t.out = s.out) ∧
  (∀ s t : State, step s = .next t → s.fault = true → t.fault = false →
    ∃ rest, s.inputs = .reset :: rest ∨ ∃ w, s.inputs = .resetDuring w :: rest) ∧
  (∀ s : State, s.inputs = [] → step s = .next s)

/-- 70 R191: a command that reset interrupts is abandoned: no response, the state of a reset, and of the OUT words
only those of a PROCESS are open. Which words are open (log 14), and that the others, which are the host's (10 R29),
are kept (log 12), is the model's reading. -/
def Obligations.ResetAbandonsCommand : Prop :=
  ∀ (s : State) (w : CommandWord) (rest : List HostEvent), s.inputs = .resetDuring w :: rest →
    ∃ t, step s = .next t ∧ t.alive = false ∧ t.fault = false ∧ t.seq = .idle ∧ t.inst = none ∧
      t.config = s.config ∧ t.inputs = rest ∧ t.rspC = s.rspC ∧ t.rspP = s.rspP ∧
      (∀ f i o, decode w = .ok (.process f i o) →
        ∀ k, f * o ≤ k → Memory.read t.out k = Memory.read s.out k) ∧
      ((∀ f i o, decode w ≠ .ok (.process f i o)) → t.out = s.out)

/-- 60 R170: exactly one status, the first that applies, for every word, legal or not; and `fault` is set by the two
statuses the table says set it, by no other. -/
def Obligations.StatusFollowsPriorityTable : Prop :=
  (∀ (i : Instr) (s : State), Answers i s (priorityStatus i s)) ∧
  (∀ (i : Instr) (s t : State), exec i s = .next t →
    t.fault = (s.fault || priorityStatus i s == .errNoInstance || priorityStatus i s == .errCounter)) ∧
  (∀ (w : CommandWord) (why : IllegalWord) (s : State), decode w = .error why →
    performWord w s = .next (s.respond (if s.fault then .errFaulted else .errIllegalCommand) 0#32 0#32))

/-- 60 R174, R175: an error changes nothing but its response, whose data words are zero, and the `fault` bit of the
two statuses that set it. -/
def Obligations.ErrorsArePrecise : Prop :=
  ∀ (i : Instr) (s t : State) (r : Response), exec i s = .next t →
    t.responses s.port = r :: s.responses s.port → r.status ≠ .ok →
    r.d0 = 0#32 ∧ r.d1 = 0#32 ∧
    t = { s.respond r.status 0#32 0#32 with
          fault := s.fault || r.status == .errNoInstance || r.status == .errCounter }

/-- 60 R173: while `fault = 1` every command word on either port answers `ERR_FAULTED` and changes nothing; only
hardware reset clears `fault`, and it also destroys the instance. -/
def Obligations.FaultedBlockRefusesEverything : Prop :=
  ∀ s : State, s.fault = true →
    (∀ w ins rest, s.inputs = .commandC w ins :: rest →
      step s = .next { s with inputs := rest, port := .c, inBuf := ins, rspC := ⟨.errFaulted, 0#32, 0#32⟩ :: s.rspC }) ∧
    (∀ w rest, s.inputs = .commandP w :: rest →
      step s = .next { s with inputs := rest, port := .p, rspP := ⟨.errFaulted, 0#32, 0#32⟩ :: s.rspP }) ∧
    (∀ t, step s = .next t → t.fault = false →
      t.inst = none ∧ ∃ rest, s.inputs = .reset :: rest ∨ ∃ w, s.inputs = .resetDuring w :: rest)

/-- 60 R171: a legal PROCESS, GETB, SETF, GETF or RELEASE with no instance sets `fault` and answers
`ERR_NO_INSTANCE`. -/
def Obligations.CommandWithoutInstanceFaults : Prop :=
  ∀ (i : Instr) (s : State), (∀ b, i ≠ .create b) → s.fault = false → s.alive = false →
    (s.port = .c ∨ ∃ x v, i = .setf x v ∨ i = .getf x) →
    exec i s = .next { s.respond .errNoInstance 0#32 0#32 with fault := true }

/-- 60 R172: a PROCESS that would pass the end of `sampleCount` faults before it touches anything. -/
def Obligations.CounterExhaustionFaults : Prop :=
  ∀ (s : State) (d : DspState) (f n : Nat), s.fault = false → s.port = .c → s.inst = some d → d.capacity ≠ 0#32 →
    d.sampleCount + f > 2 ^ s.config.scw - 1 →
    exec (.process f n n) s = .next { s.respond .errCounter 0#32 0#32 with fault := true }

/-- 60 R168: `ERR_EMPTY_BUFFER` is raised only by PROCESS, when `capacity = 0`; it changes nothing. -/
def Obligations.EmptyBufferExactly : Prop :=
  ∀ (i : Instr) (s : State),
    (Answers i s .errEmptyBuffer ↔
      ∃ f n d, i = .process f n n ∧ s.fault = false ∧ s.port = .c ∧ s.inst = some d ∧ d.capacity = 0#32) ∧
    (Answers i s .errEmptyBuffer → exec i s = .next (s.respond .errEmptyBuffer 0#32 0#32)) ∧
    Status.errEmptyBuffer.code = 0x03#8

/-- 60 R166: `ERR_OUT_OF_MEMORY` is raised only by CREATE, when an instance is alive or the ring RAM is too small; it
changes nothing, and the living instance is untouched. -/
def Obligations.OutOfMemoryExactly : Prop :=
  ∀ (i : Instr) (s : State),
    (Answers i s .errOutOfMemory ↔
      ∃ b, i = .create b ∧ s.fault = false ∧ s.port = .c ∧ (s.alive = true ∨ 8 * b > s.config.ringWords)) ∧
    (Answers i s .errOutOfMemory → exec i s = .next (s.respond .errOutOfMemory 0#32 0#32)) ∧
    Status.errOutOfMemory.code = 0x01#8

/-- 44 R150, 60 R167: on a living block, GETB takes only index 0, SETF and GETF only index 1; any other index changes
nothing. On a dead block the check of `alive` comes first. -/
def Obligations.InvalidIndexExactly : Prop :=
  ∀ (i : Instr) (s : State),
    (Answers i s .errInvalidParam ↔
      s.fault = false ∧ s.alive = true ∧
        ((s.port = .c ∧ ∃ x, i = .getb x ∧ x ≠ 0) ∨ (∃ x v, i = .setf x v ∧ x ≠ 1) ∨ (∃ x, i = .getf x ∧ x ≠ 1))) ∧
    (Answers i s .errInvalidParam → exec i s = .next (s.respond .errInvalidParam 0#32 0#32)) ∧
    Status.errInvalidParam.code = 0x02#8

/-- 10 R35: the values after a CREATE that responds OK, and when it does; nothing else changes but the model's own
draw counter (the working registers keep what they held: the model's reading, log 5). `volumeLinear` and `channelsField` are free values: nothing is said of them. -/
def Obligations.CreateCompletes : Prop :=
  ∀ (s : State) (b : Nat), s.config.wf = true → s.fault = false → s.port = .c → s.alive = false →
    8 * b ≤ s.config.ringWords →
    ∃ d, exec (.create b) s = .next ({ s with inst := some d, draws := s.draws + 2 }.respond .ok 0#32 0#32) ∧
      d.blockSize.toNat = b ∧ d.capacity.toNat = 8 * b ∧ d.sampleCount = b ∧ d.speedPercent = 0x3F800000#32 ∧
      ∀ k, Memory.read d.ring k = 0x00000000#32

/-- 10 R36, 44 R146: RELEASE of a living instance; nothing else changes. -/
def Obligations.ReleaseCompletes : Prop :=
  ∀ s : State, s.fault = false → s.port = .c → s.alive = true →
    exec .release s = .next ({ s with inst := none }.respond .ok 0#32 0#32)

/-- 44 R147: GETB 0 returns the handle and the byte length `8 * blockSize`; nothing changes. -/
def Obligations.GetbCompletes : Prop :=
  ∀ (s : State) (d : DspState), s.fault = false → s.port = .c → s.inst = some d →
    8 * d.blockSize.toNat < 2 ^ 32 →
    ∃ len : Word, len.toNat = 8 * d.blockSize.toNat ∧
      exec (.getb 0) s = .next (s.respond .ok s.config.stateBase len)

/-- 44 R148: SETF 1 stores the word bit for bit, on either port; nothing else changes, `eff` least of all. -/
def Obligations.SetfCompletes : Prop :=
  ∀ (s : State) (d : DspState) (v : Word), s.fault = false → s.inst = some d →
    exec (.setf 1 v) s = .next ({ s with inst := some { d with speedPercent := v } }.respond .ok 0#32 0#32)

/-- 44 R149: GETF 1 returns the word of `speedPercent`, on either port; nothing changes. -/
def Obligations.GetfCompletes : Prop :=
  ∀ (s : State) (d : DspState), s.fault = false → s.inst = some d →
    exec (.getf 1) s = .next (s.respond .ok d.speedPercent 0#32)

/-- 44 R149, R148, 95 S4 and S8: what SETF stored, GETF returns unclamped, on either port and as often as it is asked. -/
def Obligations.SetThenGetReturnsTheWord : Prop :=
  ∀ (s : State) (v : Word) (q : Port), s.fault = false → s.alive = true →
    ∃ t u, exec (.setf 1 v) s = .next t ∧ exec (.getf 1) { t with port := q } = .next u ∧
      u.responses q = ⟨.ok, v, 0#32⟩ :: t.responses q ∧
      ∃ u', exec (.getf 1) { u with port := q } = .next u' ∧ u'.responses q = ⟨.ok, v, 0#32⟩ :: u.responses q

/-- 43 R125, R128, R129, R132: a PROCESS that passes its checks completes, at every stride: the pointer advances by
the frames, OUT holds at `(m, c)` the `acc` that MAC left for that sample, OUT is written below `frames * nch` only,
the ring only at the write indices of its frames and channels, and nothing else of the block or the host changes. That
`xs`, `omx` and `eff` still hold the sampled speed and its filter after the response (the spec leaves them unspecified
there) is the model's choice (log 5), and that OUT is kept from `frames * nch` on is its reading (log 12). -/
def Obligations.ProcessCompletes : Prop :=
  ∀ (s : State) (d : DspState) (f n : Nat), ProcessAccepted s d f →
    ∃ t d', exec (.process f n n) s = .next t ∧
      t = (s.commit (processBlock ⟨f, n, n⟩ (s.engine d))).respond .ok 0#32 0#32 ∧
      t.inst = some d' ∧ d'.sampleCount = d.sampleCount + f ∧
      d'.blockSize = d.blockSize ∧ d'.capacity = d.capacity ∧ d'.speedPercent = d.speedPercent ∧
      d'.volumeLinear = d.volumeLinear ∧ d'.channelsField = d.channelsField ∧
      t.work.xs = d.speedPercent ∧ t.work.omx = (interp (s.engine d)).work.omx ∧
      t.work.eff = (interp (s.engine d)).work.eff ∧
      (Memory.wf s.out = true → ∀ m < f, ∀ c < n, Memory.read t.out (m * n + c) =
        (mac n c (duringFrame ⟨f, n, n⟩ m c (interp (s.engine d)))).work.acc) ∧
      (∀ k, f * n ≤ k → Memory.read t.out k = Memory.read s.out k) ∧
      (∀ k, (∀ m < f, ∀ c < n, k ≠ floorMod ((d.sampleCount + m : Int) * n + c) d.capacity.toNat) →
        Memory.read d'.ring k = Memory.read d.ring k) ∧
      t.rspC = ⟨.ok, 0#32, 0#32⟩ :: s.rspC ∧ t.rspP = s.rspP ∧ t.config = s.config ∧ t.inputs = s.inputs ∧
      t.port = s.port ∧ t.inBuf = s.inBuf ∧ t.fault = s.fault ∧ t.seq = s.seq

/-- 43 R130: PROCESS with `frames = 0` still makes its checks; if it passes them it touches no ring, IN or OUT word,
leaves `sampleCount`, and responds `OK`. What the working registers hold after the response is the model's choice
(log 5). -/
def Obligations.ZeroFramesTouchNothing : Prop :=
  ∀ (s : State) (i o : Nat), s.port = .c →
    (s.fault = true → exec (.process 0 i o) s = .next (s.respond .errFaulted 0#32 0#32)) ∧
    (s.fault = false → s.inst = none →
      exec (.process 0 i o) s = .next { s.respond .errNoInstance 0#32 0#32 with fault := true }) ∧
    (∀ d, s.fault = false → s.inst = some d →
      (i ≠ o → exec (.process 0 i o) s = .next (s.respond .errChannelMismatch 0#32 0#32)) ∧
      (i = o → d.capacity = 0#32 → exec (.process 0 i o) s = .next (s.respond .errEmptyBuffer 0#32 0#32)) ∧
      (i = o → d.capacity ≠ 0#32 → d.sampleCount ≤ 2 ^ s.config.scw - 1 →
        ∃ t, exec (.process 0 i o) s = .next t ∧ t.inst = s.inst ∧ t.out = s.out ∧
          t.inBuf = s.inBuf ∧ t.config = s.config ∧ t.inputs = s.inputs ∧ t.seq = s.seq ∧
          t.work.xs = d.speedPercent ∧ t.work.eff = (interp (s.engine d)).work.eff ∧ t.work.acc = s.work.acc ∧
          t.rspC = ⟨.ok, 0#32, 0#32⟩ :: s.rspC ∧ t.rspP = s.rspP ∧ t.fault = s.fault))

/-- 43 R131: PROCESS with no channels runs INTERP, advances `sampleCount` by its frames, touches no ring, IN or OUT
word, and responds `OK`. What the working registers hold after the response is the model's choice (log 5). -/
def Obligations.ZeroChannelsOnlyAdvance : Prop :=
  ∀ (s : State) (d : DspState) (f : Nat), ProcessAccepted s d f →
    ∃ t, exec (.process f 0 0) s = .next t ∧
      t.inst = some { d with sampleCount := d.sampleCount + f } ∧ t.out = s.out ∧ t.inBuf = s.inBuf ∧
      t.config = s.config ∧ t.inputs = s.inputs ∧ t.port = s.port ∧ t.seq = s.seq ∧
      t.work = (interp (s.engine d)).work ∧
      t.rspC = ⟨.ok, 0#32, 0#32⟩ :: s.rspC ∧ t.rspP = s.rspP ∧ t.fault = s.fault

/-- 42 R118, R122: at a constant stride with `21 * nch <= capacity`, during any frame of any later PROCESS, after the
RWRITE of a channel, RREAD at tap `t` returns the channel's input sample `t` frames ago, and `F(+0.0)` from before
the stream began. -/
def Obligations.RingHoldsTheLastSamples : Prop :=
  ∀ (e : Engine) (size nch : Nat) (bs : List Block) (b : Block) (s c t : Nat),
    FreshRing e.inst size → 21 * nch ≤ 8 * size → BlocksSupplied nch (bs ++ [b]) →
    s < b.frames → c < nch → t ≤ 20 →
    rread (duringFrame ⟨b.frames, nch, nch⟩ s c (interp (startBlock b (runBlocks nch bs e)))).inst nch c t =
      streamWord nch (bs ++ [b]) c ((totalFrames bs + s : Nat) - (t : Int))

/-- 43 R133: at a constant stride with `21 * nch <= capacity`, every PROCESS writes at `(s, c)` of OUT the sum of
43 R128 over the channel's last 21 input samples, reaching back into earlier PROCESSes, with the one filter computed
at its own start. -/
def Obligations.OutputIsTheConvolution : Prop :=
  ∀ (e : Engine) (size nch : Nat) (bs : List Block) (b : Block) (s c : Nat),
    FreshRing e.inst size → Memory.wf e.out = true → 21 * nch ≤ 8 * size → BlocksSupplied nch (bs ++ [b]) →
    s < b.frames → c < nch →
    ∃ k, Memory.read (runBlocks nch (bs ++ [b]) e).out (s * nch + c) =
      convolution e.config k (interp (startBlock b (runBlocks nch bs e))).work.eff
        (fun i => streamWord nch (bs ++ [b]) c ((totalFrames bs + s : Nat) - (i : Int)))

/-- 43 R135: two PROCESSes at one stride and one speed equal one PROCESS on the concatenated input: where the long one
passes its checks all three respond `OK`, with the same OUT words, instance and working registers (which a model could
destroy between commands: log 5). NaN results are fixed, since under the default each operation draws its own NaN
(40 R88) and a claim must not depend on which. -/
def Obligations.TwoBlocksEqualOne : Prop :=
  ∀ (s : State) (d : DspState) (f g n : Nat) (xs ys : List Word) (w : Word),
    s.config.nanResult = .fixed w → Memory.wf s.out = true → ProcessAccepted s d (f + g) → xs.length = f * n → ys.length = g * n →
    ∃ t u v, exec (.process f n n) { s with inBuf := xs } = .next t ∧
      exec (.process g n n) { t with inBuf := ys } = .next u ∧
      exec (.process (f + g) n n) { s with inBuf := xs ++ ys } = .next v ∧
      t.rspC = ⟨.ok, 0#32, 0#32⟩ :: s.rspC ∧ u.rspC = ⟨.ok, 0#32, 0#32⟩ :: t.rspC ∧
      v.rspC = ⟨.ok, 0#32, 0#32⟩ :: s.rspC ∧ u.inst = v.inst ∧ u.work = v.work ∧
      (∀ k < f * n, Memory.read t.out k = Memory.read v.out k) ∧
      (∀ k < g * n, Memory.read u.out k = Memory.read v.out (f * n + k))

/-- 10 R13, 43 R126, R137: the sequencer, ticked exactly the counted number of times from the start of an accepted
PROCESS and idle no sooner, leaves what the PROCESS as one step leaves. One micro-operation a tick is the model's cut
(log 13). -/
def Obligations.SequencerRefinesProcess : Prop :=
  ∀ (s : State) (d : DspState) (o : ProcessOperands), s.inst = some d →
    (∀ k < processTicks o, ((State.tick o)^[k] s.startProcess).seq ≠ .idle) ∧
    (State.tick o)^[processTicks o] s.startProcess =
      { s.commit (processBlock o (s.engine d)) with seq := .idle }

/-- 20 R52: after the sampling instant of a PROCESS, a SETF or GETF of the P-port commutes with the rest of it, said in
ticks, whose cut is the model's (log 13). -/
def Obligations.PPortCommutesAfterSampling : Prop :=
  ∀ (s : State) (o : ProcessOperands) (i : Instr) (n : Nat), (∃ x v, i = .setf x v ∨ i = .getf x) →
    (∀ a b c, s.seq ≠ .busy .interp a b c) →
    (State.tick o)^[n] (afterPPort i s) = afterPPort i ((State.tick o)^[n] s)

/-- 40 R82: `round32` returns a binary32 value nearest to `q`, the one whose fraction bit 0 is 0 on a tie; infinity
exactly from `(2^24 - 2^-1) * 2^104` on; and the sign of `q`, also of a zero. -/
def Obligations.RoundsToNearestEven : Prop :=
  ∀ (sign : Bool) (num den : Nat), 0 < den →
    signBit (round32 sign num den) = sign ∧
    (round32 sign num den).toNat % 2 ^ 31 = roundMagnitude num den ∧
    (roundMagnitude num den = 0x7F800000 ↔ (2 ^ 25 - 1) * 2 ^ 253 * den ≤ 2 * num) ∧
    (roundMagnitude num den < 0x7F800000 → ∀ b < 0x7F800000,
      roundingError num den (roundMagnitude num den) ≤ roundingError num den b ∧
      (roundingError num den b = roundingError num den (roundMagnitude num den) → b ≠ roundMagnitude num den →
        roundMagnitude num den % 2 = 0)) ∧
    roundMagnitude num den ≤ 0x7F800000

/-- 40 R92: an exact result is returned exactly: a sum, and a product, that is a finite nonzero binary32 value. -/
def Obligations.ExactResultsAreExact : Prop :=
  (∀ a b c : Word, isFinite a = true → isFinite b = true → isFinite c = true → isZero c = false →
    scaledValue a + scaledValue b = scaledValue c → fadd32 a b = some c) ∧
  (∀ a b c : Word, isFinite a = true → isFinite b = true → isFinite c = true → isZero c = false →
    scaledValue a * scaledValue b = scaledValue c * 2 ^ 149 → fmul32 a b = some c)

/-- 40 R92: addition and multiplication commute, and multiplying by 1.0 changes nothing but a NaN. -/
def Obligations.ArithmeticCommutes : Prop :=
  (∀ a b : Word, fadd32 a b = fadd32 b a) ∧ (∀ a b : Word, fmul32 a b = fmul32 b a) ∧
  (∀ a : Word, isNaN a = false → fmul32 a 0x3F800000#32 = some a)

/-- 40 R83, R84: a finite word minus itself is `+0`, infinity minus itself is a NaN, and adding a zero of either sign
to a nonzero finite word returns the word. -/
def Obligations.SubtractingItselfIsZero : Prop :=
  (∀ a : Word, isFinite a = true → fsub32 a a = some 0x00000000#32) ∧
  (∀ a : Word, isInf a = true → fsub32 a a = none) ∧
  (∀ a z : Word, isFinite a = true → isZero a = false → isZero z = true → fadd32 a z = some a ∧ fadd32 z a = some a)

/-- 95 A1 to A34, a few of each operation. -/
def Obligations.NumericsVectorsHold : Prop :=
  fadd32 0x3DCCCCCD#32 0x3E4CCCCD#32 = some 0x3E99999A#32 ∧
  fadd32 0x3F800001#32 0x33800000#32 = some 0x3F800002#32 ∧
  fadd32 0x7F7FFFFF#32 0x7F7FFFFF#32 = some 0x7F800000#32 ∧
  fsub32 0x3F800000#32 0x3DCCCCCD#32 = some 0x3F666666#32 ∧
  fmul32 0x3DCCCCCD#32 0x3DCCCCCD#32 = some 0x3C23D70B#32 ∧
  fmul32 0x00000003#32 0x3F000000#32 = some 0x00000002#32 ∧
  fmul32 0x00000000#32 0x7F800000#32 = none

/-- 41 R104: the end points under file 40. At `x = +0` and `x = -0` the filter is `filterLow`, at `x = 1` it is `filterHigh`, bit
for bit where that coefficient is nonzero, and a zero where it is a zero; at `x = +0` that zero is `-0` only if the
low coefficient is `-0` and the high one is negative. -/
def Obligations.InterpEndPoints : Prop :=
  ∀ (e : Engine) (i : Fin Config.taps), e.config.wf = true → e.config.numerics = .file40 →
    let low := e.config.coefLow[i]
    let high := e.config.coefHigh[i]
    let eff := (interp e).work.eff[i]
    (e.inst.speedPercent = 0x00000000#32 →
      (interp e).work.omx = 0x3F800000#32 ∧
      fmul32 low 0x3F800000#32 = some low ∧ (∃ z, fmul32 high 0x00000000#32 = some z ∧ isZero z = true) ∧
      (isZero low = false → eff = low) ∧
      (isZero low = true → eff = if low = 0x80000000#32 ∧ signBit high = true then 0x80000000#32 else 0x00000000#32)) ∧
    (e.inst.speedPercent = 0x80000000#32 →
      (interp e).work.omx = 0x3F800000#32 ∧
      (isZero low = false → eff = low) ∧ (isZero low = true → isZero eff = true)) ∧
    (e.inst.speedPercent = 0x3F800000#32 →
      (interp e).work.omx = 0x00000000#32 ∧
      (isZero high = false → eff = high) ∧ (isZero high = true → isZero eff = true))

/-- 41 R106 under file 40: a NaN speed makes `omx` and every `eff[i]` a NaN; a speed of plus or minus infinity makes
`omx` the opposite infinity and `eff[i]` a NaN where a coefficient is a zero or both have one sign, and an infinity
elsewhere. -/
def Obligations.InterpBeyondTheRange : Prop :=
  ∀ (e : Engine) (i : Fin Config.taps), e.config.wf = true → e.config.numerics = .file40 →
    let low := e.config.coefLow[i]
    let high := e.config.coefHigh[i]
    let eff := (interp e).work.eff[i]
    (isNaN e.inst.speedPercent = true → isNaN (interp e).work.omx = true ∧ isNaN eff = true) ∧
    (e.inst.speedPercent = 0x7F800000#32 → (interp e).work.omx = 0xFF800000#32) ∧
    (e.inst.speedPercent = 0xFF800000#32 → (interp e).work.omx = 0x7F800000#32) ∧
    (e.inst.speedPercent = 0x7F800000#32 ∨ e.inst.speedPercent = 0xFF800000#32 →
      ((isZero low = true ∨ isZero high = true ∨ signBit low = signBit high) → isNaN eff = true) ∧
      (isZero low = false → isZero high = false → signBit low ≠ signBit high → isInf eff = true))

/-- 41 R102, R107: what INTERP writes, for every `NUMERICS`, where its operations return no NaN: `xs`, `1 - xs` and the
21 blends, the low product on the left; it writes nothing else but the draw counter. -/
def Obligations.InterpWritesTheBlend : Prop :=
  ∀ (e : Engine) (omx : Word), (numerics e.config).fsub32 0x3F800000#32 e.inst.speedPercent = some omx →
    (interp e).work.xs = e.inst.speedPercent ∧ (interp e).work.omx = omx ∧
    (∀ (i : Fin Config.taps) (l h v : Word), (numerics e.config).fmul32 e.config.coefLow[i] omx = some l →
      (numerics e.config).fmul32 e.config.coefHigh[i] e.inst.speedPercent = some h →
      (numerics e.config).fadd32 l h = some v →
      (interp e).work.eff[i] = v) ∧
    (interp e).work.acc = e.work.acc ∧ (interp e).inst = e.inst ∧ (interp e).out = e.out ∧
    (interp e).config = e.config ∧ (interp e).inBuf = e.inBuf

/-- 40 R86, 43 R128, under file 40: a MAC whose 21 products are all zeros, of either sign, leaves `+0` in `acc`. -/
def Obligations.MacOfZerosIsPositiveZero : Prop :=
  ∀ (e : Engine) (nch c : Nat), e.config.numerics = .file40 →
    (∀ i : Fin Config.taps, ∃ z, fmul32 (rread e.inst nch c i.val) e.work.eff[i] = some z ∧ isZero z = true) →
    (mac nch c e).work.acc = 0x00000000#32

/-- 43 R128: MAC leaves in `acc` the sum over the 21 words RREAD returns, for every `NUMERICS`, and changes nothing
else but the draw counter. -/
def Obligations.MacIsTheConvolution : Prop :=
  ∀ (e : Engine) (nch c : Nat),
    (mac nch c e).work.acc = convolution e.config e.draws e.work.eff (rread e.inst nch c) ∧
    mac nch c e = { e with work := { e.work with acc := (mac nch c e).work.acc }, draws := e.draws + 42 }

/-- 20 R49: RREAD at tap 0 returns the value the RWRITE of the same sample just stored. The ring is in its canonical
form, which `StepKeepsInvariant` says it keeps. -/
def Obligations.ReadAfterWriteReturnsTheValue : Prop :=
  ∀ (d : DspState) (nch c : Nat) (v : Word), Memory.wf d.ring = true → rread (rwrite d nch c v) nch c 0 = v

/-- 42 R111, R113, R114, 20 R41: for every operand value a ring index lies in `[0, capacity)` and differs from its
exact argument by a multiple of `capacity`. -/
def Obligations.RingIndicesAreInRange : Prop :=
  ∀ (d : DspState) (nch c t : Nat), d.capacity ≠ 0#32 →
    ringIndex d nch c t < d.capacity.toNat ∧
    (d.capacity.toNat : Int) ∣ ((d.sampleCount : Int) - t) * nch + c - ringIndex d nch c t ∧
    ringIndex d nch c 0 = writeIndex d nch c

/-- 42 R119: the `21 * nch` tap indices are pairwise distinct exactly when `21 * nch <= capacity`. -/
def Obligations.TapIndicesDistinctExactly : Prop :=
  ∀ (d : DspState) (nch : Nat), 1 ≤ nch → d.capacity ≠ 0#32 →
    ((∀ t ≤ 20, ∀ t' ≤ 20, ∀ c < nch, ∀ c' < nch,
        ringIndex d nch c t = ringIndex d nch c' t' → t = t' ∧ c = c') ↔
      21 * nch ≤ d.capacity.toNat)

/-- 10 R16: `fault` is set only by a command without an instance or an exhausted counter. -/
def Obligations.FaultIsSetOnlyByTwoErrors : Prop :=
  ∀ (i : Instr) (s t : State), exec i s = .next t → s.fault = false → t.fault = true →
    (s.alive = false ∧ ∀ b, i ≠ .create b) ∨
    ∃ f n d, i = .process f n n ∧ s.inst = some d ∧ d.sampleCount + f > 2 ^ s.config.scw - 1

/-- 10 R11: `alive` becomes 1 only by a CREATE that responds OK, and 0 only by a RELEASE that responds OK or by
hardware reset. -/
def Obligations.AliveChangesOnlyByLifecycle : Prop :=
  (∀ (i : Instr) (s t : State), exec i s = .next t → s.alive = false → t.alive = true →
    (∃ b, i = .create b) ∧ t.responses s.port = ⟨.ok, 0#32, 0#32⟩ :: s.responses s.port) ∧
  (∀ (i : Instr) (s t : State), exec i s = .next t → s.alive = true → t.alive = false →
    i = .release ∧ t.responses s.port = ⟨.ok, 0#32, 0#32⟩ :: s.responses s.port) ∧
  (∀ (s t : State) (rest : List HostEvent) (w : CommandWord),
    (s.inputs = .reset :: rest ∨ s.inputs = .resetDuring w :: rest) → step s = .next t → t.alive = false)

/-- 10 R14, R17, R18, 42 R110: while an instance lives, no command changes `blockSize`, `capacity` or the two unused
registers, none lowers `sampleCount`, and only SETF changes `speedPercent`. -/
def Obligations.InstanceRegistersAreStable : Prop :=
  ∀ (i : Instr) (s t : State) (d d' : DspState), exec i s = .next t → s.inst = some d → t.inst = some d' →
    d'.blockSize = d.blockSize ∧ d'.capacity = d.capacity ∧ d'.volumeLinear = d.volumeLinear ∧
    d'.channelsField = d.channelsField ∧ d.sampleCount ≤ d'.sampleCount ∧
    (d'.sampleCount ≠ d.sampleCount ∨ d'.ring ≠ d.ring → ∃ f n, i = .process f n n) ∧
    (d'.speedPercent ≠ d.speedPercent → ∃ v, i = .setf 1 v ∧ d'.speedPercent = v)

/-- 10 R25, 41 R100: the banks, and the other parameters, have the same value after every step, resets included. -/
def Obligations.BanksNeverChange : Prop :=
  ∀ s t : State, step s = .next t → t.config = s.config

/-- 30 R70, R71: the layout of the 72-bit response record and the numbers of the statuses. -/
def Obligations.ResponseRecordLayout : Prop :=
  (∀ r : Response, r.bits.extractLsb' 64 8 = r.status.code ∧ r.bits.extractLsb' 32 32 = r.d0 ∧
    r.bits.extractLsb' 0 32 = r.d1) ∧
  Status.ok.code = 0x00#8 ∧ Status.errOutOfMemory.code = 0x01#8 ∧ Status.errInvalidParam.code = 0x02#8 ∧
  Status.errEmptyBuffer.code = 0x03#8 ∧ Status.errIllegalCommand.code = 0x04#8 ∧
  Status.errChannelMismatch.code = 0x05#8 ∧ Status.errNoInstance.code = 0x06#8 ∧ Status.errCounter.code = 0x07#8 ∧
  Status.errFaulted.code = 0x08#8

/-- 30 R73, 44 R152: the pseudo-instructions are the commands they abbreviate. -/
def Obligations.PseudoInstructionsExpand : Prop :=
  ∀ v : Word, encode (Instr.setspeed v) = encode (.setf 1 v) ∧ encode Instr.getspeed = 0x5000000100000000#64 ∧
    encode Instr.getwave = 0x3000000000000000#64
end

