-- ==== Sys2Proof/Laws/Memory.lean ====
section
/-! SUPPORT. The laws of memory: a read after a write, the canonical form, and the indices listed; every later claim
about the ring or OUT cites these. -/

namespace Sys2Proof.Machine

@[simp] theorem Memory.read_nil (k : Nat) : Memory.read [] k = posZero := rfl

@[simp] theorem Memory.wf_nil : Memory.wf [] = true := rfl

/-- The canonical form, cell by cell. -/
theorem Memory.wf_cons (k : Nat) (v : Word) (m : Memory) :
    Memory.wf ((k, v) :: m) = true ↔ v ≠ posZero ∧ (∀ c ∈ m.head?, k < c.1) ∧ Memory.wf m = true := by
  cases m with
  | nil => simp [Memory.wf]
  | cons c rest => obtain ⟨j, u⟩ := c; simp [Memory.wf, and_assoc]

/-- In canonical form every later index is greater. -/
theorem Memory.wf_lt (k : Nat) (v : Word) (m : Memory) (h : Memory.wf ((k, v) :: m) = true) :
    ∀ c ∈ m, k < c.1 := by
  induction m generalizing k v with
  | nil => simp
  | cons c rest ih =>
    obtain ⟨j, u⟩ := c
    have h' := (Memory.wf_cons k v _).1 h
    have hkj : k < j := h'.2.1 (j, u) (by simp)
    intro c hc
    rcases List.mem_cons.1 hc with rfl | hc
    · exact hkj
    · exact lt_trans hkj (ih j u h'.2.2 c hc)

/-- A word with no listed cell reads as `F(+0.0)`. -/
theorem Memory.read_of_not_listed (m : Memory) (k : Nat) (h : ∀ c ∈ m, c.1 ≠ k) : Memory.read m k = posZero := by
  induction m with
  | nil => rfl
  | cons c rest ih =>
    obtain ⟨j, u⟩ := c
    have hj : j ≠ k := h (j, u) (by simp)
    simp only [Memory.read, hj, if_false]
    exact ih fun c hc => h c (by simp [hc])

/-- A write leaves every other word alone. -/
theorem Memory.read_write_ne (m : Memory) (k j : Nat) (v : Word) (h : j ≠ k) :
    Memory.read (Memory.write m k v) j = Memory.read m j := by
  induction m with
  | nil => by_cases hv : v = posZero <;> simp [Memory.write, Memory.read, hv, h.symm]
  | cons c rest ih =>
    obtain ⟨i, u⟩ := c
    simp only [Memory.write]
    split_ifs with h1 h2 h3 h4
    · rfl
    · simp [Memory.read, h.symm]
    · subst h3; simp [Memory.read, h.symm]
    · subst h3; simp [Memory.read, h.symm]
    · simp only [Memory.read, ih]

/-- A read after a write to the same word gives the value written. -/
theorem Memory.read_write_self (m : Memory) (k : Nat) (v : Word) (h : Memory.wf m = true) :
    Memory.read (Memory.write m k v) k = v := by
  induction m with
  | nil => by_cases hv : v = posZero <;> simp [Memory.write, Memory.read, hv]
  | cons c rest ih =>
    obtain ⟨i, u⟩ := c
    have hlt := Memory.wf_lt i u rest h
    simp only [Memory.write]
    split_ifs with h1 h2 h3 h4
    · rw [h2]
      refine Memory.read_of_not_listed _ _ fun c hc => ?_
      rcases List.mem_cons.1 hc with rfl | hc
      · simp; omega
      · have := hlt c hc; omega
    · simp [Memory.read]
    · rw [h4]
      exact Memory.read_of_not_listed _ _ fun c hc => by have := hlt c hc; omega
    · simp [Memory.read]
    · have hik : i ≠ k := fun e => h3 e.symm
      simp only [Memory.read, hik, if_false]
      exact ih ((Memory.wf_cons i u rest).1 h).2.2

/-- What a word reads after a write to a memory in canonical form. -/
theorem Memory.read_write (m : Memory) (k j : Nat) (v : Word) (h : Memory.wf m = true) :
    Memory.read (Memory.write m k v) j = if j = k then v else Memory.read m j := by
  split_ifs with hj
  · rw [hj]; exact Memory.read_write_self m k v h
  · exact Memory.read_write_ne m k j v hj

/-- A write lists no index but its own and those listed before. -/
theorem Memory.mem_write (m : Memory) (k : Nat) (v : Word) (c : Nat × Word) (h : c ∈ Memory.write m k v) :
    c ∈ m ∨ c = (k, v) := by
  induction m with
  | nil => by_cases hv : v = posZero <;> simp_all [Memory.write]
  | cons d rest ih =>
    obtain ⟨i, u⟩ := d
    simp only [Memory.write] at h
    split_ifs at h <;> simp only [List.mem_cons] at h ⊢ <;> tauto

/-- The least index listed after a write. -/
theorem Memory.head_write (m : Memory) (k : Nat) (v : Word) (j : Nat) (hj : j < k) (h : ∀ c ∈ m.head?, j < c.1)
    (hwf : Memory.wf m = true) : ∀ c ∈ (Memory.write m k v).head?, j < c.1 := by
  intro c hc
  rcases Memory.mem_write m k v c (List.mem_of_mem_head? hc) with hm | rfl
  · cases m with
    | nil => simp at hm
    | cons d rest =>
      obtain ⟨i, u⟩ := d
      have hi : j < i := h (i, u) (by simp)
      rcases List.mem_cons.1 hm with rfl | hm
      · exact hi
      · exact lt_trans hi (Memory.wf_lt i u rest hwf c hm)
  · exact hj

/-- Every write keeps the canonical form. -/
theorem Memory.wf_write (m : Memory) (k : Nat) (v : Word) (h : Memory.wf m = true) :
    Memory.wf (Memory.write m k v) = true := by
  induction m with
  | nil => by_cases hv : v = posZero <;> simp [Memory.write, Memory.wf, hv]
  | cons c rest ih =>
    obtain ⟨i, u⟩ := c
    have hc := (Memory.wf_cons i u rest).1 h
    simp only [Memory.write]
    split_ifs with h1 h2 h3 h4
    · exact h
    · exact (Memory.wf_cons k v _).2 ⟨h2, by simpa using h1, h⟩
    · exact hc.2.2
    · subst h3; exact (Memory.wf_cons k v _).2 ⟨h4, hc.2.1, hc.2.2⟩
    · refine (Memory.wf_cons i u _).2 ⟨hc.1, ?_, ih hc.2.2⟩
      exact Memory.head_write rest k v i (by omega) hc.2.1 hc.2.2

/-- A write below a bound keeps every listed index below it. -/
theorem Memory.write_below (m : Memory) (k : Nat) (v : Word) (n : Nat) (hk : k < n) (h : ∀ c ∈ m, c.1 < n) :
    ∀ c ∈ Memory.write m k v, c.1 < n := by
  intro c hc
  rcases Memory.mem_write m k v c hc with hm | rfl
  · exact h c hm
  · exact hk

/-- The unspecified OUT words of an abandoned PROCESS keep the canonical form. -/
theorem wf_unspecifiedOut (out : Memory) (draws n : Nat) (h : Memory.wf out = true) :
    Memory.wf (unspecifiedOut out draws n) = true := by
  unfold unspecifiedOut
  induction n with
  | zero => simpa using h
  | succ n ih => rw [Nat.fold_succ]; exact Memory.wf_write _ _ _ ih

/-- The words from `n` on are untouched by the unspecified words below. -/
theorem read_unspecifiedOut (out : Memory) (draws n k : Nat) (h : n ≤ k) :
    Memory.read (unspecifiedOut out draws n) k = Memory.read out k := by
  unfold unspecifiedOut
  induction n with
  | zero => simp
  | succ n ih => rw [Nat.fold_succ, Memory.read_write_ne _ _ _ _ (by omega)]; exact ih (by omega)

end Sys2Proof.Machine
end

