-- ==== Sys2Proof/Laws/Ring.lean ====
section
/-! SUPPORT. The floor modulo, and one lemma per field for RWRITE and ADVANCE. -/

namespace Sys2Proof.Machine

/-- For a positive modulus the floor modulo is Lean's `%` on integers. -/
theorem floorMod_eq (a : Int) (n : Nat) : (floorMod a n : Int) = if n = 0 then max a 0 else a % n := by
  unfold floorMod
  split_ifs with h
  · subst h; simp [Int.fmod_zero]
  · rw [Int.fmod_eq_emod_of_nonneg _ (by omega), Int.toNat_of_nonneg (Int.emod_nonneg _ (by omega))]

/-- The result lies in `[0, n)` for every integer, negative or not (spec 42 R111). -/
theorem floorMod_lt (a : Int) (n : Nat) (h : 0 < n) : floorMod a n < n := by
  have := floorMod_eq a n
  rw [if_neg (by omega)] at this
  have := Int.emod_lt_of_pos a (by omega : (0 : Int) < n)
  omega

/-- Tap 0 reads the slot the write of the same sample used (spec 42 R114). -/
theorem ringIndex_zero (d : DspState) (nch c : Nat) : ringIndex d nch c 0 = writeIndex d nch c := by
  simp [ringIndex, writeIndex]

@[simp] theorem rwrite_blockSize (d : DspState) (nch c : Nat) (v : Word) : (rwrite d nch c v).blockSize = d.blockSize := rfl
@[simp] theorem rwrite_capacity (d : DspState) (nch c : Nat) (v : Word) : (rwrite d nch c v).capacity = d.capacity := rfl
@[simp] theorem rwrite_sampleCount (d : DspState) (nch c : Nat) (v : Word) :
    (rwrite d nch c v).sampleCount = d.sampleCount := rfl
@[simp] theorem rwrite_speedPercent (d : DspState) (nch c : Nat) (v : Word) :
    (rwrite d nch c v).speedPercent = d.speedPercent := rfl
@[simp] theorem rwrite_volumeLinear (d : DspState) (nch c : Nat) (v : Word) :
    (rwrite d nch c v).volumeLinear = d.volumeLinear := rfl
@[simp] theorem rwrite_channelsField (d : DspState) (nch c : Nat) (v : Word) :
    (rwrite d nch c v).channelsField = d.channelsField := rfl
@[simp] theorem rwrite_ring (d : DspState) (nch c : Nat) (v : Word) :
    (rwrite d nch c v).ring = Memory.write d.ring (writeIndex d nch c) v := rfl

@[simp] theorem advance_blockSize (d : DspState) : (advance d).blockSize = d.blockSize := rfl
@[simp] theorem advance_capacity (d : DspState) : (advance d).capacity = d.capacity := rfl
@[simp] theorem advance_sampleCount (d : DspState) : (advance d).sampleCount = d.sampleCount + 1 := rfl
@[simp] theorem advance_speedPercent (d : DspState) : (advance d).speedPercent = d.speedPercent := rfl
@[simp] theorem advance_volumeLinear (d : DspState) : (advance d).volumeLinear = d.volumeLinear := rfl
@[simp] theorem advance_channelsField (d : DspState) : (advance d).channelsField = d.channelsField := rfl
@[simp] theorem advance_ring (d : DspState) : (advance d).ring = d.ring := rfl

end Sys2Proof.Machine
end

