-- ==== Sys2Proof/Laws/Engine.lean ====
section
/-! SUPPORT. What the micro-operations of a PROCESS change, one lemma per field; and the induction over the loops of
43 R126, packaged once. -/

namespace Sys2Proof.Machine

@[simp] theorem interp_config (e : Engine) : (interp e).config = e.config := rfl
@[simp] theorem interp_inBuf (e : Engine) : (interp e).inBuf = e.inBuf := rfl
@[simp] theorem interp_inst (e : Engine) : (interp e).inst = e.inst := rfl
@[simp] theorem interp_out (e : Engine) : (interp e).out = e.out := rfl
@[simp] theorem interp_acc (e : Engine) : (interp e).work.acc = e.work.acc := rfl
@[simp] theorem interp_xs (e : Engine) : (interp e).work.xs = e.inst.speedPercent := rfl
@[simp] theorem interp_draws (e : Engine) : (interp e).draws = e.draws + 64 := rfl

@[simp] theorem macStart_config (e : Engine) : (macStart e).config = e.config := rfl
@[simp] theorem macStart_inBuf (e : Engine) : (macStart e).inBuf = e.inBuf := rfl
@[simp] theorem macStart_inst (e : Engine) : (macStart e).inst = e.inst := rfl
@[simp] theorem macStart_out (e : Engine) : (macStart e).out = e.out := rfl
@[simp] theorem macStart_draws (e : Engine) : (macStart e).draws = e.draws := rfl
@[simp] theorem macStart_acc (e : Engine) : (macStart e).work.acc = posZero := rfl
@[simp] theorem macStart_xs (e : Engine) : (macStart e).work.xs = e.work.xs := rfl
@[simp] theorem macStart_omx (e : Engine) : (macStart e).work.omx = e.work.omx := rfl
@[simp] theorem macStart_eff (e : Engine) : (macStart e).work.eff = e.work.eff := rfl

section Tap

variable (nch c : Nat) (i : Fin Config.taps) (e : Engine)

@[simp] theorem macTap_config : (macTap nch c i e).config = e.config := rfl
@[simp] theorem macTap_inBuf : (macTap nch c i e).inBuf = e.inBuf := rfl
@[simp] theorem macTap_inst : (macTap nch c i e).inst = e.inst := rfl
@[simp] theorem macTap_out : (macTap nch c i e).out = e.out := rfl
@[simp] theorem macTap_draws : (macTap nch c i e).draws = e.draws + 2 := rfl
@[simp] theorem macTap_xs : (macTap nch c i e).work.xs = e.work.xs := rfl
@[simp] theorem macTap_omx : (macTap nch c i e).work.omx = e.work.omx := rfl
@[simp] theorem macTap_eff : (macTap nch c i e).work.eff = e.work.eff := rfl

end Tap

/-- A property that every turn of a counted loop keeps holds after it. -/
theorem fold_keeps {α : Type} (P : α → Prop) (n : Nat) (f : (i : Nat) → i < n → α → α) (a : α) (h0 : P a)
    (hs : ∀ i h a, P a → P (f i h a)) : P (Nat.fold n f a) := by
  induction n with
  | zero => simpa using h0
  | succ n ih => rw [Nat.fold_succ]; exact hs _ _ _ (ih _ fun i h a => hs i (by omega) a)

/-- A function that no turn of a counted loop changes is unchanged by it. -/
theorem fold_same {α β : Type} (g : α → β) (n : Nat) (f : (i : Nat) → i < n → α → α) (a : α)
    (hs : ∀ i h a, g (f i h a) = g a) : g (Nat.fold n f a) = g a :=
  fold_keeps (fun b => g b = g a) n f a rfl fun i h b hb => (hs i h b).trans hb

section Mac

variable (nch c : Nat) (e : Engine)

@[simp] theorem mac_config : (mac nch c e).config = e.config := rfl
@[simp] theorem mac_inBuf : (mac nch c e).inBuf = e.inBuf := rfl
@[simp] theorem mac_inst : (mac nch c e).inst = e.inst := rfl
@[simp] theorem mac_out : (mac nch c e).out = e.out := rfl
@[simp] theorem mac_xs : (mac nch c e).work.xs = e.work.xs := rfl
@[simp] theorem mac_omx : (mac nch c e).work.omx = e.work.omx := rfl
@[simp] theorem mac_eff : (mac nch c e).work.eff = e.work.eff := rfl

@[simp] theorem mac_draws : (mac nch c e).draws = e.draws + 42 := rfl

end Mac

section Sample

variable (o : ProcessOperands) (s c : Nat) (e : Engine)

@[simp] theorem fetchAndWrite_config : (fetchAndWrite o s c e).config = e.config := rfl
@[simp] theorem fetchAndWrite_inBuf : (fetchAndWrite o s c e).inBuf = e.inBuf := rfl
@[simp] theorem fetchAndWrite_work : (fetchAndWrite o s c e).work = e.work := rfl
@[simp] theorem fetchAndWrite_out : (fetchAndWrite o s c e).out = e.out := rfl
@[simp] theorem fetchAndWrite_inst : (fetchAndWrite o s c e).inst =
    rwrite e.inst o.outChannels c (e.inWord (sampleIndex o.inChannels s c)) := rfl

@[simp] theorem storeSample_config : (storeSample o s c e).config = e.config := rfl
@[simp] theorem storeSample_inBuf : (storeSample o s c e).inBuf = e.inBuf := rfl
@[simp] theorem storeSample_work : (storeSample o s c e).work = e.work := rfl
@[simp] theorem storeSample_inst : (storeSample o s c e).inst = e.inst := rfl
@[simp] theorem storeSample_draws : (storeSample o s c e).draws = e.draws := rfl
@[simp] theorem storeSample_out : (storeSample o s c e).out =
    Memory.write e.out (sampleIndex o.outChannels s c) e.work.acc := rfl

@[simp] theorem processSample_config : (processSample o s c e).config = e.config := by simp [processSample]
@[simp] theorem processSample_inBuf : (processSample o s c e).inBuf = e.inBuf := by simp [processSample]
@[simp] theorem processSample_xs : (processSample o s c e).work.xs = e.work.xs := by simp [processSample]
@[simp] theorem processSample_omx : (processSample o s c e).work.omx = e.work.omx := by simp [processSample]
@[simp] theorem processSample_eff : (processSample o s c e).work.eff = e.work.eff := by simp [processSample]

/-- The ring after one sample: one write, of the IN word of that sample (spec 43 R127). -/
@[simp] theorem processSample_inst : (processSample o s c e).inst =
    rwrite e.inst o.outChannels c (e.inWord (sampleIndex o.inChannels s c)) := by simp [processSample]

@[simp] theorem advanceEngine_config : (advanceEngine e).config = e.config := rfl
@[simp] theorem advanceEngine_inBuf : (advanceEngine e).inBuf = e.inBuf := rfl
@[simp] theorem advanceEngine_work : (advanceEngine e).work = e.work := rfl
@[simp] theorem advanceEngine_out : (advanceEngine e).out = e.out := rfl
@[simp] theorem advanceEngine_draws : (advanceEngine e).draws = e.draws := rfl
@[simp] theorem advanceEngine_inst : (advanceEngine e).inst = advance e.inst := rfl

@[simp] theorem processFrame_config : (processFrame o s e).config = e.config := by
  simp only [processFrame, advanceEngine_config]; exact fold_same Engine.config _ _ _ fun _ _ _ => by simp
@[simp] theorem processFrame_inBuf : (processFrame o s e).inBuf = e.inBuf := by
  simp only [processFrame, advanceEngine_inBuf]; exact fold_same Engine.inBuf _ _ _ fun _ _ _ => by simp
@[simp] theorem processFrame_xs : (processFrame o s e).work.xs = e.work.xs := by
  simp only [processFrame, advanceEngine_work]; exact fold_same (fun x : Engine => x.work.xs) _ _ _ fun _ _ _ => by simp
@[simp] theorem processFrame_omx : (processFrame o s e).work.omx = e.work.omx := by
  simp only [processFrame, advanceEngine_work]; exact fold_same (fun x : Engine => x.work.omx) _ _ _ fun _ _ _ => by simp
@[simp] theorem processFrame_eff : (processFrame o s e).work.eff = e.work.eff := by
  simp only [processFrame, advanceEngine_work]; exact fold_same (fun x : Engine => x.work.eff) _ _ _ fun _ _ _ => by simp

/-- One frame advances the pointer by one (spec 42 R116, R117). -/
@[simp] theorem processFrame_sampleCount : (processFrame o s e).inst.sampleCount = e.inst.sampleCount + 1 := by
  simp only [processFrame, advanceEngine_inst, advance_sampleCount, Nat.add_right_cancel_iff]
  exact fold_same (fun x : Engine => x.inst.sampleCount) _ _ _ fun _ _ _ => by simp
@[simp] theorem processFrame_capacity : (processFrame o s e).inst.capacity = e.inst.capacity := by
  simp only [processFrame, advanceEngine_inst, advance_capacity]
  exact fold_same (fun x : Engine => x.inst.capacity) _ _ _ fun _ _ _ => by simp
@[simp] theorem processFrame_blockSize : (processFrame o s e).inst.blockSize = e.inst.blockSize := by
  simp only [processFrame, advanceEngine_inst, advance_blockSize]
  exact fold_same (fun x : Engine => x.inst.blockSize) _ _ _ fun _ _ _ => by simp
@[simp] theorem processFrame_speedPercent : (processFrame o s e).inst.speedPercent = e.inst.speedPercent := by
  simp only [processFrame, advanceEngine_inst, advance_speedPercent]
  exact fold_same (fun x : Engine => x.inst.speedPercent) _ _ _ fun _ _ _ => by simp
@[simp] theorem processFrame_volumeLinear : (processFrame o s e).inst.volumeLinear = e.inst.volumeLinear := by
  simp only [processFrame, advanceEngine_inst, advance_volumeLinear]
  exact fold_same (fun x : Engine => x.inst.volumeLinear) _ _ _ fun _ _ _ => by simp
@[simp] theorem processFrame_channelsField : (processFrame o s e).inst.channelsField = e.inst.channelsField := by
  simp only [processFrame, advanceEngine_inst, advance_channelsField]
  exact fold_same (fun x : Engine => x.inst.channelsField) _ _ _ fun _ _ _ => by simp

end Sample

end Sys2Proof.Machine
end

