-- ==== Sys2Proof/Laws/State.lean ====
section
/-! SUPPORT. One lemma per field per update of State and Engine, and what the shared operations of Machine/Ops.lean
change, so that later proofs unfold no record update. -/

namespace Sys2Proof.Machine

section Respond

variable (s : State) (st : Status) (a b : Word)

@[simp] theorem State.respond_config : (s.respond st a b).config = s.config := by unfold State.respond; split <;> rfl
@[simp] theorem State.respond_inputs : (s.respond st a b).inputs = s.inputs := by unfold State.respond; split <;> rfl
@[simp] theorem State.respond_port : (s.respond st a b).port = s.port := by unfold State.respond; split <;> rfl
@[simp] theorem State.respond_inBuf : (s.respond st a b).inBuf = s.inBuf := by unfold State.respond; split <;> rfl
@[simp] theorem State.respond_fault : (s.respond st a b).fault = s.fault := by unfold State.respond; split <;> rfl
@[simp] theorem State.respond_inst : (s.respond st a b).inst = s.inst := by unfold State.respond; split <;> rfl
@[simp] theorem State.respond_seq : (s.respond st a b).seq = s.seq := by unfold State.respond; split <;> rfl
@[simp] theorem State.respond_work : (s.respond st a b).work = s.work := by unfold State.respond; split <;> rfl
@[simp] theorem State.respond_out : (s.respond st a b).out = s.out := by unfold State.respond; split <;> rfl
@[simp] theorem State.respond_draws : (s.respond st a b).draws = s.draws := by unfold State.respond; split <;> rfl
@[simp] theorem State.respond_alive : (s.respond st a b).alive = s.alive := by simp [State.alive]

/-- The port of the current command returns one response, and the other port none. -/
@[simp] theorem State.respond_responses (q : Port) :
    (s.respond st a b).responses q = if q = s.port then ⟨st, a, b⟩ :: s.responses q else s.responses q := by
  cases hp : s.port <;> cases q <;> simp [State.respond, State.responses, hp]

theorem State.respond_rspC : (s.respond st a b).rspC = if s.port = .c then ⟨st, a, b⟩ :: s.rspC else s.rspC := by
  cases hp : s.port <;> simp [State.respond, hp]

theorem State.respond_rspP : (s.respond st a b).rspP = if s.port = .p then ⟨st, a, b⟩ :: s.rspP else s.rspP := by
  cases hp : s.port <;> simp [State.respond, hp]

end Respond

section Raise

variable (s : State) (e : Status)

@[simp] theorem State.raise_config : (s.raise e).config = s.config := by simp [State.raise]
@[simp] theorem State.raise_inputs : (s.raise e).inputs = s.inputs := by simp [State.raise]
@[simp] theorem State.raise_port : (s.raise e).port = s.port := by simp [State.raise]
@[simp] theorem State.raise_inBuf : (s.raise e).inBuf = s.inBuf := by simp [State.raise]
@[simp] theorem State.raise_fault : (s.raise e).fault = (s.fault || e.setsFault) := by simp [State.raise]
@[simp] theorem State.raise_inst : (s.raise e).inst = s.inst := by simp [State.raise]
@[simp] theorem State.raise_seq : (s.raise e).seq = s.seq := by simp [State.raise]
@[simp] theorem State.raise_work : (s.raise e).work = s.work := by simp [State.raise]
@[simp] theorem State.raise_out : (s.raise e).out = s.out := by simp [State.raise]
@[simp] theorem State.raise_draws : (s.raise e).draws = s.draws := by simp [State.raise]
@[simp] theorem State.raise_alive : (s.raise e).alive = s.alive := by simp [State.alive]

@[simp] theorem State.raise_responses (q : Port) :
    (s.raise e).responses q = if q = s.port then ⟨e, 0#32, 0#32⟩ :: s.responses q else s.responses q := by
  have h := State.respond_responses s e 0#32 0#32 q
  cases q <;> simpa [State.raise, State.responses] using h

/-- An error that does not set `fault` is its response and nothing else (spec 60 R175). -/
theorem State.raise_of_not_setsFault (h : e.setsFault = false) : s.raise e = s.respond e 0#32 0#32 := by
  cases hp : s.port <;> simp [State.raise, State.respond, hp, h]

/-- An error that sets `fault` (spec 60 R171, R172). -/
theorem State.raise_of_setsFault (h : e.setsFault = true) :
    s.raise e = { s.respond e 0#32 0#32 with fault := true } := by
  simp [State.raise, h]

end Raise

section Commit

variable (s : State) (e : Engine) (d : DspState)

@[simp] theorem State.commit_config : (s.commit e).config = s.config := rfl
@[simp] theorem State.commit_inputs : (s.commit e).inputs = s.inputs := rfl
@[simp] theorem State.commit_port : (s.commit e).port = s.port := rfl
@[simp] theorem State.commit_inBuf : (s.commit e).inBuf = s.inBuf := rfl
@[simp] theorem State.commit_rspC : (s.commit e).rspC = s.rspC := rfl
@[simp] theorem State.commit_rspP : (s.commit e).rspP = s.rspP := rfl
@[simp] theorem State.commit_responses (q : Port) : (s.commit e).responses q = s.responses q := by cases q <;> rfl
@[simp] theorem State.commit_fault : (s.commit e).fault = s.fault := rfl
@[simp] theorem State.commit_inst : (s.commit e).inst = some e.inst := rfl
@[simp] theorem State.commit_seq : (s.commit e).seq = s.seq := rfl
@[simp] theorem State.commit_work : (s.commit e).work = e.work := rfl
@[simp] theorem State.commit_out : (s.commit e).out = e.out := rfl
@[simp] theorem State.commit_draws : (s.commit e).draws = e.draws := rfl

@[simp] theorem State.engine_config : (s.engine d).config = s.config := rfl
@[simp] theorem State.engine_inBuf : (s.engine d).inBuf = s.inBuf := rfl
@[simp] theorem State.engine_inst : (s.engine d).inst = d := rfl
@[simp] theorem State.engine_work : (s.engine d).work = s.work := rfl
@[simp] theorem State.engine_out : (s.engine d).out = s.out := rfl
@[simp] theorem State.engine_draws : (s.engine d).draws = s.draws := rfl

end Commit

section Update

variable (s : State) (x : Option DspState) (n : Nat)

@[simp] theorem State.withInst_config : (s.withInst x).config = s.config := rfl
@[simp] theorem State.withInst_inputs : (s.withInst x).inputs = s.inputs := rfl
@[simp] theorem State.withInst_port : (s.withInst x).port = s.port := rfl
@[simp] theorem State.withInst_inBuf : (s.withInst x).inBuf = s.inBuf := rfl
@[simp] theorem State.withInst_rspC : (s.withInst x).rspC = s.rspC := rfl
@[simp] theorem State.withInst_rspP : (s.withInst x).rspP = s.rspP := rfl
@[simp] theorem State.withInst_fault : (s.withInst x).fault = s.fault := rfl
@[simp] theorem State.withInst_inst : (s.withInst x).inst = x := rfl
@[simp] theorem State.withInst_seq : (s.withInst x).seq = s.seq := rfl
@[simp] theorem State.withInst_work : (s.withInst x).work = s.work := rfl
@[simp] theorem State.withInst_out : (s.withInst x).out = s.out := rfl
@[simp] theorem State.withInst_draws : (s.withInst x).draws = s.draws := rfl
@[simp] theorem State.withInst_responses (q : Port) : (s.withInst x).responses q = s.responses q := by cases q <;> rfl
@[simp] theorem State.withInst_alive : (s.withInst x).alive = x.isSome := rfl

@[simp] theorem State.drew_config : (s.drew n).config = s.config := rfl
@[simp] theorem State.drew_inputs : (s.drew n).inputs = s.inputs := rfl
@[simp] theorem State.drew_port : (s.drew n).port = s.port := rfl
@[simp] theorem State.drew_inBuf : (s.drew n).inBuf = s.inBuf := rfl
@[simp] theorem State.drew_rspC : (s.drew n).rspC = s.rspC := rfl
@[simp] theorem State.drew_rspP : (s.drew n).rspP = s.rspP := rfl
@[simp] theorem State.drew_fault : (s.drew n).fault = s.fault := rfl
@[simp] theorem State.drew_inst : (s.drew n).inst = s.inst := rfl
@[simp] theorem State.drew_seq : (s.drew n).seq = s.seq := rfl
@[simp] theorem State.drew_work : (s.drew n).work = s.work := rfl
@[simp] theorem State.drew_out : (s.drew n).out = s.out := rfl
@[simp] theorem State.drew_draws : (s.drew n).draws = s.draws + n := rfl
@[simp] theorem State.drew_responses (q : Port) : (s.drew n).responses q = s.responses q := by cases q <;> rfl
@[simp] theorem State.drew_alive : (s.drew n).alive = s.alive := rfl

end Update

section Ports

variable (s : State) (ws : List Word)

@[simp] theorem State.acceptC_config : (s.acceptC ws).config = s.config := rfl
@[simp] theorem State.acceptC_inputs : (s.acceptC ws).inputs = s.inputs := rfl
@[simp] theorem State.acceptC_port : (s.acceptC ws).port = .c := rfl
@[simp] theorem State.acceptC_inBuf : (s.acceptC ws).inBuf = ws := rfl
@[simp] theorem State.acceptC_rspC : (s.acceptC ws).rspC = s.rspC := rfl
@[simp] theorem State.acceptC_rspP : (s.acceptC ws).rspP = s.rspP := rfl
@[simp] theorem State.acceptC_fault : (s.acceptC ws).fault = s.fault := rfl
@[simp] theorem State.acceptC_inst : (s.acceptC ws).inst = s.inst := rfl
@[simp] theorem State.acceptC_seq : (s.acceptC ws).seq = s.seq := rfl
@[simp] theorem State.acceptC_work : (s.acceptC ws).work = s.work := rfl
@[simp] theorem State.acceptC_out : (s.acceptC ws).out = s.out := rfl
@[simp] theorem State.acceptC_draws : (s.acceptC ws).draws = s.draws := rfl

@[simp] theorem State.acceptC_responses (q : Port) : (s.acceptC ws).responses q = s.responses q := by cases q <;> rfl
@[simp] theorem State.acceptC_alive : (s.acceptC ws).alive = s.alive := rfl

@[simp] theorem State.acceptP_responses (q : Port) : s.acceptP.responses q = s.responses q := by cases q <;> rfl
@[simp] theorem State.acceptP_alive : s.acceptP.alive = s.alive := rfl
@[simp] theorem State.acceptP_config : s.acceptP.config = s.config := rfl
@[simp] theorem State.acceptP_inputs : s.acceptP.inputs = s.inputs := rfl
@[simp] theorem State.acceptP_port : s.acceptP.port = .p := rfl
@[simp] theorem State.acceptP_inBuf : s.acceptP.inBuf = s.inBuf := rfl
@[simp] theorem State.acceptP_rspC : s.acceptP.rspC = s.rspC := rfl
@[simp] theorem State.acceptP_rspP : s.acceptP.rspP = s.rspP := rfl
@[simp] theorem State.acceptP_fault : s.acceptP.fault = s.fault := rfl
@[simp] theorem State.acceptP_inst : s.acceptP.inst = s.inst := rfl
@[simp] theorem State.acceptP_seq : s.acceptP.seq = s.seq := rfl
@[simp] theorem State.acceptP_work : s.acceptP.work = s.work := rfl
@[simp] theorem State.acceptP_out : s.acceptP.out = s.out := rfl
@[simp] theorem State.acceptP_draws : s.acceptP.draws = s.draws := rfl

@[simp] theorem State.hardwareReset_config : s.hardwareReset.config = s.config := rfl
@[simp] theorem State.hardwareReset_inputs : s.hardwareReset.inputs = s.inputs := rfl
@[simp] theorem State.hardwareReset_rspC : s.hardwareReset.rspC = s.rspC := rfl
@[simp] theorem State.hardwareReset_rspP : s.hardwareReset.rspP = s.rspP := rfl
@[simp] theorem State.hardwareReset_fault : s.hardwareReset.fault = false := rfl
@[simp] theorem State.hardwareReset_inst : s.hardwareReset.inst = none := rfl
@[simp] theorem State.hardwareReset_seq : s.hardwareReset.seq = .idle := rfl
@[simp] theorem State.hardwareReset_work : s.hardwareReset.work = Working.reset := rfl
@[simp] theorem State.hardwareReset_out : s.hardwareReset.out = s.out := rfl
@[simp] theorem State.hardwareReset_draws : s.hardwareReset.draws = s.draws := rfl

end Ports

end Sys2Proof.Machine
end

