-- ==== Sys2Proof/Laws/Commands.lean ====
section
/-! SUPPORT. What the common checks and each command can answer, said once: every command answers a next state, an
error or its own effect. -/

namespace Sys2Proof.Machine

/-- The common checks pass exactly when the block is not faulted and the port accepts the command (spec 60 R170). -/
theorem entryCheck_none (s : State) (i : Instr) :
    s.entryCheck i = none ↔ s.fault = false ∧ i.acceptedOn s.port = true := by
  unfold State.entryCheck; split_ifs <;> simp_all

/-- What the common checks can answer. -/
theorem entryCheck_some (s : State) (i : Instr) (e : Status) (h : s.entryCheck i = some e) :
    (s.fault = true ∧ e = .errFaulted) ∨
    (s.fault = false ∧ i.acceptedOn s.port = false ∧ e = .errIllegalCommand) := by
  unfold State.entryCheck at h; split_ifs at h <;> simp_all

/-- Every command is accepted on the C-port (spec 30 R60). -/
@[simp] theorem acceptedOn_c (i : Instr) : i.acceptedOn .c = true := by cases i <;> rfl

/-- The checks of PROCESS pass exactly when its three conditions fail (spec 43 R125 steps 4 to 6). -/
theorem processCheck_none (cfg : Config) (o : ProcessOperands) (d : DspState) :
    processCheck cfg o d = none ↔
      o.inChannels = o.outChannels ∧ d.capacity ≠ 0#32 ∧ d.sampleCount + o.frames ≤ cfg.maxSampleCount := by
  unfold processCheck; split_ifs <;> simp_all

/-- What the checks of PROCESS can answer. -/
theorem processCheck_some (cfg : Config) (o : ProcessOperands) (d : DspState) (e : Status)
    (h : processCheck cfg o d = some e) :
    (o.inChannels ≠ o.outChannels ∧ e = .errChannelMismatch) ∨
    (o.inChannels = o.outChannels ∧ d.capacity = 0#32 ∧ e = .errEmptyBuffer) ∨
    (o.inChannels = o.outChannels ∧ d.capacity ≠ 0#32 ∧ cfg.maxSampleCount < d.sampleCount + o.frames ∧
      e = .errCounter) := by
  unfold processCheck at h; split_ifs at h <;> simp_all

/-- Every command answers a next state that is an error or its own effect, and the effect is of one of five kinds. -/
theorem exec_cases (i : Instr) (s : State) :
    (∃ e, e ≠ Status.ok ∧ exec i s = .next (s.raise e)) ∨
    (∃ b, i = .create b ∧ s.inst = none ∧ s.fault = false ∧ Config.maxch * b ≤ s.config.ringWords ∧ exec i s =
      .next (((s.withInst (some (newInstance b s.draws))).drew 2).respond .ok 0#32 0#32)) ∨
    (∃ f n d, i = .process f n n ∧ s.inst = some d ∧ s.fault = false ∧ processCheck s.config ⟨f, n, n⟩ d = none ∧
      exec i s = .next ((s.commit (processBlock ⟨f, n, n⟩ (s.engine d))).respond .ok 0#32 0#32)) ∨
    (∃ v d, i = .setf 1 v ∧ s.inst = some d ∧ s.fault = false ∧
      exec i s = .next ((s.withInst (some { d with speedPercent := v })).respond .ok 0#32 0#32)) ∨
    (∃ a b d, s.inst = some d ∧ s.fault = false ∧ exec i s = .next (s.respond .ok a b)) ∨
    (∃ d, i = .release ∧ s.inst = some d ∧ s.fault = false ∧
      exec i s = .next ((s.withInst none).respond .ok 0#32 0#32)) := by
  rcases hc : s.entryCheck i with _ | e
  · obtain ⟨hf, -⟩ := (entryCheck_none s i).1 hc
    cases i with
    | create b =>
      rcases hi : s.inst with _ | d
      · by_cases hb : Config.maxch * b ≤ s.config.ringWords
        · exact .inr (.inl ⟨b, rfl, rfl, hf, hb, by simp [exec, execCreate, hc, State.alive, hi, hb]⟩)
        · exact .inl ⟨.errOutOfMemory, by simp, by simp [exec, execCreate, hc, State.alive, hi]; omega⟩
      · exact .inl ⟨.errOutOfMemory, by simp, by simp [exec, execCreate, hc, State.alive, hi]⟩
    | process f n o =>
      rcases hi : s.inst with _ | d
      · exact .inl ⟨.errNoInstance, by simp, by simp [exec, execProcess, hc, hi]⟩
      · rcases hp : processCheck s.config ⟨f, n, o⟩ d with _ | e
        · obtain rfl : n = o := ((processCheck_none _ _ _).1 hp).1
          exact .inr (.inr (.inl ⟨f, n, d, rfl, rfl, hf, hp, by simp [exec, execProcess, hc, hi, hp]⟩))
        · refine .inl ⟨e, ?_, by simp [exec, execProcess, hc, hi, hp]⟩
          rcases processCheck_some _ _ _ _ hp with ⟨-, rfl⟩ | ⟨-, -, rfl⟩ | ⟨-, -, -, rfl⟩ <;> simp
    | getb x =>
      rcases hi : s.inst with _ | d
      · exact .inl ⟨.errNoInstance, by simp, by simp [exec, execGetb, hc, hi]⟩
      · by_cases hx : blobIndexValid x = true
        · exact .inr (.inr (.inr (.inr (.inl ⟨_, _, d, rfl, hf, by simp [exec, execGetb, hc, hi, hx]; rfl⟩))))
        · exact .inl ⟨.errInvalidParam, by simp, by simp [exec, execGetb, hc, hi, hx]⟩
    | setf x v =>
      rcases hi : s.inst with _ | d
      · exact .inl ⟨.errNoInstance, by simp, by simp [exec, execSetf, hc, hi]⟩
      · by_cases hx : floatIndexValid x = true
        · obtain rfl : x = 1 := by simpa [floatIndexValid] using hx
          exact .inr (.inr (.inr (.inl ⟨v, d, rfl, rfl, hf, by simp [exec, execSetf, hc, hi, hx]⟩)))
        · exact .inl ⟨.errInvalidParam, by simp, by simp [exec, execSetf, hc, hi, hx]⟩
    | getf x =>
      rcases hi : s.inst with _ | d
      · exact .inl ⟨.errNoInstance, by simp, by simp [exec, execGetf, hc, hi]⟩
      · by_cases hx : floatIndexValid x = true
        · exact .inr (.inr (.inr (.inr (.inl ⟨_, _, d, rfl, hf, by simp [exec, execGetf, hc, hi, hx]; rfl⟩))))
        · exact .inl ⟨.errInvalidParam, by simp, by simp [exec, execGetf, hc, hi, hx]⟩
    | release =>
      rcases hi : s.inst with _ | d
      · exact .inl ⟨.errNoInstance, by simp, by simp [exec, execRelease, hc, hi]⟩
      · exact .inr (.inr (.inr (.inr (.inr ⟨d, rfl, rfl, hf, by simp [exec, execRelease, hc, hi]⟩))))
  · refine .inl ⟨e, ?_, ?_⟩
    · rcases entryCheck_some _ _ _ hc with ⟨-, rfl⟩ | ⟨-, -, rfl⟩ <;> simp
    · cases i <;> simp [exec, execCreate, execProcess, execGetb, execSetf, execGetf, execRelease, hc]

end Sys2Proof.Machine
end

