-- ==== Sys2Proof/Laws/Numerics.lean ====
section
/-! SUPPORT. `NUMERICS` at its default is file 40, and every function of two words is given by some table (spec 00 R6). -/

namespace Sys2Proof.Machine

@[simp] theorem tableFunction_nil (f : Word → Word → Option Word) : tableFunction [] f = f := rfl

/-- At the default the three functions are those of file 40. -/
theorem numerics_file40 (cfg : Config) (h : cfg.numerics = .file40) : numerics cfg = ⟨fadd32, fsub32, fmul32⟩ := by
  simp [numerics, h, NumericsTables.file40]

/-- A table that lists `g` on the pairs of a list gives `g` on those pairs. -/
theorem lookup_graph (g : Word → Word → Option Word) (ps : List (Word × Word)) (a b : Word) (h : (a, b) ∈ ps) :
    (ps.map fun p => (p, g p.1 p.2)).lookup (a, b) = some (g a b) := by
  induction ps with
  | nil => cases h
  | cons p ps ih =>
    rw [List.map_cons, List.lookup_cons]
    by_cases hp : (a, b) = p
    · subst hp; simp
    · rw [beq_false_of_ne hp]; exact ih ((List.mem_cons.1 h).resolve_left hp)

/-- There are finitely many words, so some list holds every pair of them. -/
theorem exists_all_pairs : ∃ ps : List (Word × Word), ∀ p, p ∈ ps := by
  have : Finite Word := Finite.of_injective BitVec.toFin fun _ _ h => BitVec.eq_of_toFin_eq h
  exact ⟨(Set.finite_univ (α := Word × Word)).toFinset.toList, fun p => by simp⟩

/-- No function is left out: every function of two words is the one some table gives. -/
theorem tableFunction_surjective (f g : Word → Word → Option Word) : ∃ t, tableFunction t f = g := by
  obtain ⟨ps, h⟩ := exists_all_pairs
  refine ⟨ps.map fun p => (p, g p.1 p.2), ?_⟩
  funext a b
  rw [tableFunction, lookup_graph g ps a b (h _), Option.getD_some]

end Sys2Proof.Machine
end

