-- ==== Sys2Proof/Laws/PerInstr.lean ====
section
/-! SUPPORT. A statement made once per command: the family OpcodeField of LAWS.json. -/

namespace Sys2Proof.Laws.OpcodeField

/-- The opcode of a command's row (spec 30 R68). -/
def opcode : Instr → Nat
  | .create _ => 1
  | .process _ _ _ => 2
  | .getb _ => 3
  | .setf _ _ => 4
  | .getf _ => 5
  | .release => 6

/-- The encoding of a well-formed command carries its opcode in bits 63:60 (30 R61). -/
def Statement (i : Instr) : Prop := i.wellFormed = true → field (encode i) 60 4 = opcode i

/-- A field of a word given as a number below 2^64. -/
theorem field_ofNat (n lo len : Nat) (h : n < 2 ^ 64) :
    field (BitVec.ofNat 64 n) lo len = n / 2 ^ lo % 2 ^ len := by
  rw [field, BitVec.extractLsb'_toNat, BitVec.toNat_ofNat, Nat.mod_eq_of_lt h, Nat.shiftRight_eq_div_pow]

theorem create (blockSize : Nat) : Statement (.create blockSize) := by
  intro h
  simp only [Instr.wellFormed, decide_eq_true_eq] at h
  simp only [encode, place, opcode]
  rw [field_ofNat _ _ _ (by omega)]; omega

theorem process (frames inChannels outChannels : Nat) : Statement (.process frames inChannels outChannels) := by
  intro h
  simp only [Instr.wellFormed, Bool.and_eq_true, decide_eq_true_eq] at h
  simp only [encode, place, opcode]
  rw [field_ofNat _ _ _ (by omega)]; omega

theorem getb (index : Nat) : Statement (.getb index) := by
  intro h
  simp only [Instr.wellFormed, decide_eq_true_eq] at h
  simp only [encode, place, opcode]
  rw [field_ofNat _ _ _ (by omega)]; omega

theorem setf (index : Nat) (value : Word) : Statement (.setf index value) := by
  intro h
  simp only [Instr.wellFormed, decide_eq_true_eq] at h
  have hv := value.isLt
  simp only [encode, place, opcode]
  rw [field_ofNat _ _ _ (by omega)]; omega

theorem getf (index : Nat) : Statement (.getf index) := by
  intro h
  simp only [Instr.wellFormed, decide_eq_true_eq] at h
  simp only [encode, place, opcode]
  rw [field_ofNat _ _ _ (by omega)]; omega

theorem release : Statement .release := fun _ => by decide

end Sys2Proof.Laws.OpcodeField
end

