-- ==== Sys2Proof/Tests/Slice0.lean ====
section
/-! SUPPORT. The model's own tests: ill-formed commands are refused, words written out from the formats decode, the
spec's vectors (95) hold for single steps, and every statement with hypotheses has a witness that meets them. The
expected values are those of spec/95_test_vectors.md. -/

namespace Sys2Proof.Tests

-- One theorem at a time: evaluated side by side, the tests take more threads than the memory limit of a check allows.
set_option Elab.async false

open Sys2Proof Sys2Proof.Machine Sys2Proof.Claims

/-! ### Well-formedness: one ill-formed command for each check -/

theorem test_create_too_large_refused : (Instr.create (2 ^ 32)).wellFormed = false := by decide
theorem test_process_frames_too_large_refused : (Instr.process (2 ^ 32) 1 1).wellFormed = false := by decide
theorem test_process_inChannels_too_large_refused : (Instr.process 1 256 1).wellFormed = false := by decide
theorem test_process_outChannels_too_large_refused : (Instr.process 1 1 256).wellFormed = false := by decide
theorem test_getb_index_too_large_refused : (Instr.getb 65536).wellFormed = false := by decide
theorem test_setf_index_too_large_refused : (Instr.setf 65536 0).wellFormed = false := by decide
theorem test_getf_index_too_large_refused : (Instr.getf 65536).wellFormed = false := by decide

/-! ### Decoding: words written out from the formats of 30 R62 to R66, and the illegal words of 95 E2 to E8 -/

theorem test_decode_create :
    decode 0b0001_0000000000000000000000000000_00000000000000000000000100000000#64 = .ok (.create 256) := by decide
theorem test_decode_process :
    decode 0b0010_000000000000_00000010_00000010_00000000000000000000000100000000#64 = .ok (.process 256 2 2) := by decide
theorem test_decode_process_fields :
    decode 0b0010_000000000000_11111111_00001000_11111111111111111111111111111111#64 =
      .ok (.process 4294967295 255 8) := by decide
theorem test_decode_getb :
    decode 0b0011_000000000000_0000000000000001_00000000000000000000000000000000#64 = .ok (.getb 1) := by decide
theorem test_decode_setf :
    decode 0b0100_000000000000_0000000000000001_00111111000000000000000000000000#64 =
      .ok (.setf 1 0x3F000000#32) := by decide
theorem test_decode_getf :
    decode 0b0101_000000000000_0000000000000010_00000000000000000000000000000000#64 = .ok (.getf 2) := by decide
theorem test_decode_release :
    decode 0b0110_000000000000000000000000000000000000000000000000000000000000#64 = .ok .release := by decide
theorem test_decode_illegal_opcodes :
    [0x0000000000000000#64, 0x7000000000000000#64, 0xF000000000000000#64].map decode =
      [.error .reservedOpcode, .error .reservedOpcode, .error .reservedOpcode] := by decide
theorem test_decode_illegal_bits :
    [0x6000000000000001#64, 0x1000000100000004#64, 0x3000000000000001#64, 0x2001010100000004#64,
      0x4001000100000000#64, 0x5000000100000001#64].map decode = List.replicate 6 (.error .reservedBits) := by decide
theorem test_encode_examples :
    [Instr.create 256, .process 256 2 2, .setf 1 0x3FC00000#32].map encode =
      [0x1000000000000100#64, 0x2000020200000100#64, 0x400000013FC00000#64] := by decide
theorem test_decodeTableWord : decodeTableWord 64 0x2000010100000004 = some (.process 4 1 1) := by decide
theorem test_assemble_process : assembleLine "PROCESS 256, 2, 2 ; a block" = some ⟨.c, .process 256 2 2⟩ := by decide
theorem test_assemble_port_and_decimal : assembleLine "P: SETF 1, 0.1" = some ⟨.p, .setf 1 0x3DCCCCCD#32⟩ := by decide
theorem test_assemble_pseudo : assembleLine "SETSPEED 0x3FC00000" = some ⟨.c, .setf 1 0x3FC00000#32⟩ := by decide
theorem test_assemble_out_of_field : assembleLine "GETF 65536" = none := by decide
/-- Separators are no digits (log 19): eight digits, seven, and none. -/
theorem test_assemble_separators :
    assembleLine "SETF 1, 0x3F80_0000" = some ⟨.c, .setf 1 0x3F800000#32⟩ ∧
    assembleLine "SETF 1, 0x3F_80000" = none ∧ assembleLine "SETF 1, 0x________" = none ∧
    assembleLine "GETF 0x_" = none := by decide

/-! ### Numerics: 95 A1 to A34 -/

theorem test_fadd32_vectors :
    fadd32 0x3DCCCCCD 0x3E4CCCCD = some 0x3E99999A#32 ∧ fadd32 0x3F800000 0x33800000 = some 0x3F800000#32 ∧
    fadd32 0x3F800000 0x33800001 = some 0x3F800001#32 ∧ fadd32 0x3F800001 0x33800000 = some 0x3F800002#32 ∧
    fadd32 0x4B800000 0x3F800000 = some 0x4B800000#32 ∧ fadd32 0x4B800000 0x40400000 = some 0x4B800002#32 ∧
    fadd32 0x7F7FFFFF 0x7F7FFFFF = some 0x7F800000#32 ∧ fadd32 0x80000000 0x00000000 = some 0x00000000#32 ∧
    fadd32 0x80000000 0x80000000 = some 0x80000000#32 ∧ fadd32 0x00000000 0x80000000 = some 0x00000000#32 ∧
    fadd32 0x7F800000 0x3F800000 = some 0x7F800000#32 ∧ fadd32 0x7F800000 0xFF800000 = none ∧
    fadd32 0x7FC00001 0x3F800000 = none := by decide

theorem test_fsub32_vectors :
    fsub32 0x3F800000 0x00000000 = some 0x3F800000#32 ∧ fsub32 0x3F800000 0x3F800000 = some 0x00000000#32 ∧
    fsub32 0x3F800000 0x3FC00000 = some 0xBF000000#32 ∧ fsub32 0x3F800000 0xBF800000 = some 0x40000000#32 ∧
    fsub32 0x3F800000 0x3E800000 = some 0x3F400000#32 ∧ fsub32 0x3F800000 0x3DCCCCCD = some 0x3F666666#32 ∧
    fsub32 0x3FC00000 0x3FC00000 = some 0x00000000#32 ∧ fsub32 0x3F800000 0x7F800000 = some 0xFF800000#32 ∧
    fsub32 0x3F800000 0xFF800000 = some 0x7F800000#32 ∧ fsub32 0x7F800000 0x7F800000 = none := by decide

theorem test_fmul32_vectors :
    fmul32 0x3DCCCCCD 0x3DCCCCCD = some 0x3C23D70B#32 ∧ fmul32 0x40400000 0x3DCCCCCD = some 0x3E99999A#32 ∧
    fmul32 0x7F7FFFFF 0x40000000 = some 0x7F800000#32 ∧ fmul32 0x00800000 0x3F000000 = some 0x00400000#32 ∧
    fmul32 0x00000001 0x3F000000 = some 0x00000000#32 ∧ fmul32 0x00000003 0x3F000000 = some 0x00000002#32 ∧
    fmul32 0x1A000000 0x1A000000 = some 0x00000000#32 ∧ fmul32 0xBF800000 0x00000000 = some 0x80000000#32 ∧
    fmul32 0x80000000 0x80000000 = some 0x00000000#32 ∧ fmul32 0x3F000000 0xFF800000 = some 0xFF800000#32 ∧
    fmul32 0x00000000 0x7F800000 = none := by decide

/-! ### Small states: the test banks of 95 section 0 -/

def bankTail (a b : Word) : Vector Word Config.taps := ((Vector.replicate 21 0x00000000#32).set 0 a).set 1 b

/-- TB-A: identity against a one-frame delay. -/
def tbA : Config := ⟨bankTail 0x3F800000 0, bankTail 0 0x3F800000, 65536, 32, 0, .anyQuiet, .file40⟩

def oneTo21 : Vector Word Config.taps :=
  #v[0x3F800000, 0x40000000, 0x40400000, 0x40800000, 0x40A00000, 0x40C00000, 0x40E00000, 0x41000000, 0x41100000,
    0x41200000, 0x41300000, 0x41400000, 0x41500000, 0x41600000, 0x41700000, 0x41800000, 0x41880000, 0x41900000,
    0x41980000, 0x41A00000, 0x41A80000]

/-- TB-B: every tap has a different weight. -/
def tbB : Config := ⟨oneTo21, oneTo21.reverse, 65536, 32, 0, .anyQuiet, .file40⟩

/-- The banks of 95 M6. -/
def tbM6 : Config :=
  ⟨Vector.replicate 21 0x3DCCCCCD#32, Vector.replicate 21 0x3E4CCCCD#32, 65536, 32, 0, .anyQuiet, .file40⟩

/-- A block freshly reset with these parameters. -/
def fresh (cfg : Config) : State := { State.reset with config := cfg }

/-- The instance a CREATE of block size `b` and a SETF of `speed` leave. -/
def dsp (b : Nat) (speed : Word) : DspState := ⟨BitVec.ofNat 32 b, BitVec.ofNat 32 (8 * b), b, speed, 0, 0, []⟩

/-- A living block. -/
def living (cfg : Config) (b : Nat) (speed : Word) : State := { fresh cfg with inst := some (dsp b speed) }

/-- The state an outcome goes on in. -/
def after (o : Host.Outcome State Fault Refusal) : Option State :=
  match o with
  | .next t => some t
  | .fault _ => none
  | .refused _ => none

/-- The newest C-port response of an outcome. -/
def answer (o : Host.Outcome State Fault Refusal) : Option Response := (after o).bind fun t => t.rspC.head?

/-- The first `n` OUT words of an outcome. -/
def outWords (n : Nat) (o : Host.Outcome State Fault Refusal) : Option (List Word) :=
  (after o).map fun t => (List.range n).map (Memory.read t.out)

/-! ### INTERP: 95 I3, I5, I7 -/

theorem test_interp_half : (interp ((fresh tbB).engine (dsp 4 0x3F000000))).work.eff =
    Vector.replicate 21 0x41300000#32 := by decide +kernel

theorem test_interp_extrapolates :
    let e := interp ((fresh tbB).engine (dsp 4 0x3FC00000))
    e.work.omx = 0xBF000000#32 ∧ e.work.eff[0] = 0x41F80000#32 ∧ e.work.eff[20] = 0xC1100000#32 := by decide +kernel

theorem test_interp_rounds :
    (interp ((fresh tbB).engine (dsp 4 0x3DCCCCCD))).work.eff =
      #v[0x40400000, 0x40733333, 0x40933333, 0x40ACCCCD, 0x40C66666, 0x40DFFFFF, 0x40F99999, 0x41099999, 0x41166666,
        0x41233333, 0x41300000, 0x413CCCCC, 0x41499999, 0x41566666, 0x41633333, 0x41700000, 0x417CCCCC, 0x4184CCCC,
        0x418B3333, 0x4191999A, 0x41980000] := by decide +kernel

/-- Another `NUMERICS` (00 R6): a multiplication that takes the least subnormal to zero, as a unit that flushes does. -/
theorem test_numerics_is_a_parameter :
    let cfg : Config := { tbA with numerics := { NumericsTables.file40 with fmul32 := [((1, 0x3F800000), some 0)] } }
    (numerics cfg).fmul32 1 0x3F800000 = some 0 ∧ (numerics tbA).fmul32 1 0x3F800000 = some 1 ∧
    (numerics cfg).fmul32 2 0x3F800000 = some 2 := by decide +kernel

/-! ### Ring indices: 95 X3, X4, X5, X7, X8, X10, X12, X13 -/

/-- An instance with this capacity and pointer. -/
def ringAt (capacity sampleCount : Nat) : DspState := { dsp 0 0 with capacity := BitVec.ofNat 32 capacity, sampleCount := sampleCount }

theorem test_ring_indices :
    [ringIndex (ringAt 2048 256) 2 0 20, ringIndex (ringAt 2048 1024) 2 0 0, ringIndex (ringAt 2048 1024) 2 0 1,
      ringIndex (ringAt 32 4) 1 0 20, ringIndex (ringAt 24 3) 1 0 20, ringIndex (ringAt 8 1) 1 0 20,
      ringIndex (ringAt 32 4) 2 0 16, ringIndex (ringAt 64 8) 2 1 20] = [472, 0, 2046, 16, 7, 5, 8, 41] := by decide

theorem test_ring_frame_straddles_the_end :
    [writeIndex (ringAt 64 21) 3 0, writeIndex (ringAt 64 21) 3 1, writeIndex (ringAt 64 21) 3 2] = [63, 0, 1] := by decide

/-! ### Commands: one step each -/

theorem test_step_create :
    let t := after (step ((fresh tbA).withFetchWord 64 0x1000000000000100))
    (t.map fun s => (s.rspC, s.alive)) = some ([⟨.ok, 0, 0⟩], true) ∧
    ((t.bind State.inst).map fun d => (d.capacity, d.sampleCount, d.speedPercent, d.ring)) =
      some (2048, 256, 0x3F800000, []) := by decide +kernel

theorem test_create_too_large :
    answer (exec (.create 257) (fresh { tbA with ringWords := 2048 })) = some ⟨.errOutOfMemory, 0, 0⟩ := by decide +kernel

/-- 95 M4: aliasing at capacity 8. -/
theorem test_process_aliased :
    let o := exec (.process 3 1 1) { living tbB 1 0 with inBuf := [0x3F800000, 0x40000000, 0x40400000] }
    outWords 3 o = some [0x41D80000, 0x42A80000, 0x432E0000] ∧
    ((after o).bind State.inst).map (fun d => (d.sampleCount, d.ring)) =
      some (4, [(1, 0x3F800000), (2, 0x40000000), (3, 0x40400000)]) := by decide +kernel

/-- 95 M6: every product and sum rounds, and the words depend on the order of the sum. -/
theorem test_process_rounds :
    outWords 4 (exec (.process 4 1 1) { living tbM6 4 0x3DCCCCCD with
      inBuf := [0x3DCCCCCD, 0x3E4CCCCD, 0x3E99999A, 0x3F800000] }) =
      some [0x3C343958, 0x3D072B02, 0x3D872B02, 0x3E343958] := by decide +kernel

theorem test_getb : answer (exec (.getb 0) (living tbA 256 0)) = some ⟨.ok, 0, 0x00000800⟩ := by decide +kernel
theorem test_getb_wrong_index : answer (exec (.getb 1) (living tbA 256 0)) = some ⟨.errInvalidParam, 0, 0⟩ := by decide +kernel
theorem test_setf_unclamped :
    ((after (exec (.setf 1 0x3FC00000) (living tbA 4 0))).bind State.inst).map DspState.speedPercent =
      some 0x3FC00000#32 := by decide +kernel
theorem test_setf_wrong_index : answer (exec (.setf 0 0x3FC00000) (living tbA 4 0)) = some ⟨.errInvalidParam, 0, 0⟩ := by
  decide +kernel
theorem test_getf : answer (exec (.getf 1) (living tbA 4 0x3FC00000)) = some ⟨.ok, 0x3FC00000, 0⟩ := by decide +kernel
theorem test_getf_wrong_index : answer (exec (.getf 2) (living tbA 4 0)) = some ⟨.errInvalidParam, 0, 0⟩ := by decide +kernel
theorem test_release : (after (exec .release (living tbA 4 0))).map (fun s => (s.alive, s.fault)) = some (false, false) := by
  decide +kernel

/-- 95 P4 step 18: a second RELEASE. -/
theorem test_release_twice_faults :
    (after (exec .release (fresh tbA))).map (fun s => (s.rspC, s.fault)) = some ([⟨.errNoInstance, 0, 0⟩], true) := by
  decide +kernel

/-- 95 E9: a PROCESS on the P-port is illegal, and the fault bit stays 0. -/
theorem test_process_on_p_port :
    (after (step { fresh tbA with inputs := [.commandP 0x2000010100000004] })).map (fun s => (s.rspP, s.rspC, s.fault)) =
      some ([⟨.errIllegalCommand, 0, 0⟩], [], false) := by decide +kernel

/-- 95 P4 step 20: faulted outranks illegal. -/
theorem test_faulted_outranks_illegal :
    answer (step { fresh tbA with fault := true, inputs := [.commandC 0 []] }) = some ⟨.errFaulted, 0, 0⟩ := by decide +kernel

theorem test_response_bits :
    Response.bits ⟨.ok, 0x3F000000, 0⟩ = 0x003F00000000000000#72 ∧
    Response.bits ⟨.errChannelMismatch, 0, 0⟩ = 0x050000000000000000#72 := by decide

/-- The sequencer, ticked through one frame of one channel, stores what the command as one step stores. -/
theorem test_sequencer_one_frame :
    let s := { living tbB 1 0 with inBuf := [0x3F800000#32] }
    let t := (State.tick ⟨1, 1, 1⟩)^[processTicks ⟨1, 1, 1⟩] s.startProcess
    t.seq = .idle ∧ Memory.read t.out 0 = 0x41D80000#32 := by decide +kernel

/-! ### Witnesses: for every statement with hypotheses, a concrete state and operands that meet them -/

/-- A living block whose last CREATE had block size 256, with the test banks TB-A. -/
def live : State := living tbA 256 0x3F000000

/-- A block whose pointer stands one below its end. -/
def nearEnd : State := { live with inst := some { dsp 256 0 with sampleCount := 2 ^ 32 - 2 } }

/-- A living block with an empty ring. -/
def empty : State := living tbA 0 0

/-- The engine of a block right after CREATE 4. -/
def engine4 : Engine := (fresh tbA).engine (dsp 4 0x3F800000)

def block1 : Block := ⟨2, 0x3F000000, [0x3F800000, 0x40000000, 0x40400000, 0x40800000]⟩
def block2 : Block := ⟨1, 0x00000000, [0x40A00000, 0x40C00000]⟩

theorem live_inv : StateInv live := by
  refine ⟨by decide +kernel, rfl, rfl, ?_⟩
  intro d h
  cases h
  exact ⟨by decide, by decide, by decide, by decide +kernel, rfl, by simp [dsp]⟩

theorem witness_DecodeOfEncode :
    (Instr.create (2 ^ 32 - 1)).wellFormed = true ∧ (Instr.process (2 ^ 32 - 1) 255 255).wellFormed = true ∧
    (Instr.getb 65535).wellFormed = true ∧ (Instr.setf 65535 0xFFFFFFFF).wellFormed = true ∧
    (Instr.getf 65535).wellFormed = true ∧ Instr.release.wellFormed = true := by decide

theorem witness_EncodeOfDecode : decode 0x2000FFFFFFFFFFFF#64 = .ok (.process 4294967295 255 255) := by decide

theorem witness_DecodeAgreesWithOpcodeTable :
    (⟨"GETF", 0x5000000000000000#64, 0xFFFF0000FFFFFFFF#64⟩ : OpcodeRow) ∈ opcodeTable ∧
    OpcodeRow.matches ⟨"GETF", 0x5000000000000000#64, 0xFFFF0000FFFFFFFF#64⟩ 0x5000FFFF00000000#64 = true := by decide

/-- Reserved opcode and reserved bit on the C-port, a command the P-port does not take; and a legal word on each. -/
theorem witness_IllegalWordsAreAnswered :
    IllegalOn .c 0x0000000000000000#64 ∧ IllegalOn .c 0x6000000000000001#64 ∧
    IllegalOn .p 0x2000010100000004#64 ∧ ¬IllegalOn .c 0x6000000000000000#64 ∧
    ¬IllegalOn .p 0x5000000100000000#64 ∧ live.fault = false := by
  unfold IllegalOn; decide

theorem witness_StepRunsDecodedCommand :
    decode 0x5000000100000000#64 = .ok (.getf 1) ∧
    { live with inputs := [.commandC 0x5000000100000000#64 []] }.inputs = .commandC 0x5000000100000000#64 [] :: [] ∧
    { live with inputs := [.commandP 0x5000000100000000#64] }.inputs = .commandP 0x5000000100000000#64 :: [] :=
  ⟨by decide, rfl, rfl⟩

theorem witness_EveryCommandIsAnsweredOnce :
    { live with inputs := [.commandC 0#64 []] }.inputs = .commandC 0#64 [] :: [] ∧
    { live with inputs := [.commandP 0#64, .reset] }.inputs = .commandP 0#64 :: [.reset] := ⟨rfl, rfl⟩

theorem witness_StepKeepsInvariant :
    StateInv live ∧ StateInv { live with inputs := [.commandC 0x2000010100000001#64 [0x3F800000]] } ∧
    (after (step { live with inputs := [.commandC 0x2000010100000001#64 [0x3F800000]] })).isSome = true :=
  ⟨live_inv, live_inv, by decide +kernel⟩

theorem witness_HardwareResetRestarts :
    { live with inputs := [.reset, .commandP 0] }.inputs = .reset :: [.commandP 0] ∧
    (let s := { live with fault := true, inputs := [.reset] }
     s.fault = true ∧ (after (step s)).map State.fault = some false) ∧
    live.inputs = [] := ⟨rfl, by decide +kernel, rfl⟩

theorem witness_ResetAbandonsCommand :
    { live with inputs := [.resetDuring 0x2000010100000004#64] }.inputs = .resetDuring 0x2000010100000004#64 :: [] ∧
    decode 0x2000010100000004#64 = .ok (.process 4 1 1) ∧ decode 0x6000000000000000#64 = .ok .release :=
  ⟨rfl, by decide, by decide⟩

theorem witness_StatusFollowsPriorityTable : decode 0xF000000000000000#64 = .error .reservedOpcode := by decide

/-- An error that sets `fault`, and one that does not. -/
theorem witness_ErrorsArePrecise :
    exec .release (fresh tbA) = .next ((fresh tbA).raise .errNoInstance) ∧
    ((fresh tbA).raise .errNoInstance).responses .c = [⟨.errNoInstance, 0, 0⟩] ∧
    exec (.getb 7) live = .next (live.raise .errInvalidParam) ∧
    (live.raise .errInvalidParam).responses .c = [⟨.errInvalidParam, 0, 0⟩] := ⟨rfl, rfl, rfl, rfl⟩

theorem witness_FaultedBlockRefusesEverything :
    { live with fault := true, inputs := [.commandC 0x6000000000000000#64 []] }.fault = true ∧
    (after (step { live with fault := true, inputs := [.resetDuring 0#64] })).map State.fault = some false :=
  ⟨rfl, by decide +kernel⟩

/-- RELEASE on the C-port, and SETF and GETF on the P-port. -/
theorem witness_CommandWithoutInstanceFaults :
    (fresh tbA).fault = false ∧ (fresh tbA).alive = false ∧ (fresh tbA).port = .c ∧
    (∀ b, Instr.release ≠ .create b) ∧ (∀ b, Instr.setf 1 0 ≠ .create b) ∧
    { fresh tbA with port := .p }.alive = false := ⟨rfl, rfl, rfl, by simp, by simp, rfl⟩

/-- One frame too many. -/
theorem witness_CounterExhaustionFaults :
    nearEnd.fault = false ∧ nearEnd.port = .c ∧
    nearEnd.inst = some { dsp 256 0 with sampleCount := 2 ^ 32 - 2 } ∧ (dsp 256 0).capacity ≠ 0#32 ∧
    (2 ^ 32 - 2) + 2 > 2 ^ nearEnd.config.scw - 1 ∧ ¬(2 ^ 32 - 2) + 1 > 2 ^ nearEnd.config.scw - 1 := by
  refine ⟨rfl, rfl, rfl, by decide, ?_, ?_⟩ <;> decide +kernel

theorem witness_EmptyBufferExactly :
    empty.fault = false ∧ empty.port = .c ∧ empty.inst = some (dsp 0 0) ∧ (dsp 0 0).capacity = 0#32 :=
  ⟨rfl, rfl, rfl, by decide⟩

/-- A second CREATE, and the first block size the ring RAM of 65536 words cannot hold. -/
theorem witness_OutOfMemoryExactly :
    live.fault = false ∧ live.port = .c ∧ live.alive = true ∧ (fresh tbA).alive = false ∧
    8 * 8193 > (fresh tbA).config.ringWords ∧ ¬8 * 8192 > (fresh tbA).config.ringWords := by decide +kernel

theorem witness_InvalidIndexExactly :
    live.fault = false ∧ live.alive = true ∧ live.port = .c ∧ { live with port := .p }.alive = true := by decide +kernel

/-- The largest block the ring RAM of 65536 words holds. -/
theorem witness_CreateCompletes :
    (fresh tbA).config.wf = true ∧ (fresh tbA).fault = false ∧ (fresh tbA).port = .c ∧ (fresh tbA).alive = false ∧
    8 * 8192 ≤ (fresh tbA).config.ringWords := by decide +kernel

theorem witness_ReleaseCompletes : live.fault = false ∧ live.port = .c ∧ live.alive = true := by decide +kernel

theorem witness_GetbCompletes :
    live.fault = false ∧ live.port = .c ∧ live.inst = some (dsp 256 0x3F000000) ∧
    8 * (dsp 256 0x3F000000).blockSize.toNat < 2 ^ 32 := by decide +kernel

theorem witness_SetfCompletes :
    live.fault = false ∧ live.inst = some (dsp 256 0x3F000000) ∧ { live with port := .p }.fault = false := by
  decide +kernel

theorem witness_GetfCompletes : live.fault = false ∧ live.inst = some (dsp 256 0x3F000000) := by decide +kernel

theorem witness_SetThenGetReturnsTheWord : live.fault = false ∧ live.alive = true := by decide +kernel

/-- Two frames, and no frame at the very end of the pointer's range. -/
theorem witness_ProcessCompletes :
    ProcessAccepted live (dsp 256 0x3F000000) 2 ∧
    ProcessAccepted nearEnd { dsp 256 0 with sampleCount := 2 ^ 32 - 2 } 1 ∧ Memory.wf live.out = true := by
  refine ⟨⟨rfl, rfl, rfl, by decide, ?_⟩, ⟨rfl, rfl, rfl, by decide, ?_⟩, rfl⟩ <;> decide +kernel

/-- Each clause: faulted, dead, mismatch, empty, and a PROCESS that passes with its pointer at the very end. -/
theorem witness_ZeroFramesTouchNothing :
    { live with fault := true }.port = .c ∧ (fresh tbA).inst = none ∧ (fresh tbA).fault = false ∧
    live.inst = some (dsp 256 0x3F000000) ∧ (dsp 0 0).capacity = 0#32 ∧ empty.inst = some (dsp 0 0) ∧
    (dsp 256 0).capacity ≠ 0#32 ∧ 2 ^ 32 - 1 ≤ 2 ^ live.config.scw - 1 := by
  refine ⟨rfl, rfl, rfl, rfl, by decide, rfl, by decide, ?_⟩; decide +kernel

theorem witness_ZeroChannelsOnlyAdvance : ProcessAccepted live (dsp 256 0x3F000000) 4 :=
  ⟨rfl, rfl, rfl, by decide, by decide +kernel⟩

theorem witness_RingHoldsTheLastSamples :
    FreshRing (dsp 6 0) 6 ∧ 21 * 2 ≤ 8 * 6 ∧ BlocksSupplied 2 ([block1] ++ [block2]) ∧ 0 < block2.frames ∧ 1 < 2 ∧
    20 ≤ 20 :=
  ⟨⟨rfl, by decide, rfl, fun _ => rfl⟩, by decide, by unfold BlocksSupplied; decide, by decide, by decide, by decide⟩

theorem witness_OutputIsTheConvolution :
    FreshRing ((fresh tbA).engine (dsp 6 0)).inst 6 ∧ Memory.wf ((fresh tbA).engine (dsp 6 0)).out = true ∧
    21 * 2 ≤ 8 * 6 ∧ BlocksSupplied 2 ([block1] ++ [block2]) ∧ 0 < block2.frames ∧ 1 < 2 :=
  ⟨⟨rfl, by decide, rfl, fun _ => rfl⟩, rfl, by decide, by unfold BlocksSupplied; decide, by decide, by decide⟩

theorem witness_TwoBlocksEqualOne :
    let s := { live with config := { tbA with nanResult := .fixed 0x7FC00000 } }
    s.config.nanResult = .fixed 0x7FC00000 ∧ Memory.wf s.out = true ∧
    ProcessAccepted s (dsp 256 0x3F000000) (2 + 1) ∧ block1.inWords.length = 2 * 2 ∧ block2.inWords.length = 1 * 2 :=
  ⟨rfl, rfl, ⟨rfl, rfl, rfl, by decide, by decide +kernel⟩, by decide, by decide⟩

theorem witness_SequencerRefinesProcess : live.inst = some (dsp 256 0x3F000000) ∧ 0 < processTicks ⟨1, 1, 1⟩ := by
  decide +kernel

/-- In the middle of a MAC. -/
theorem witness_PPortCommutesAfterSampling :
    (∃ x v, Instr.setf 1 0x3F800000 = .setf x v ∨ Instr.setf 1 0x3F800000 = .getf x) ∧
    ∀ a b c, { live with seq := .busy .mac 0 0 7 }.seq ≠ .busy .interp a b c :=
  ⟨⟨1, 0x3F800000, .inl rfl⟩, by simp⟩

/-- A tie that rounds to even, the overflow threshold, and a value just below it. -/
theorem witness_RoundsToNearestEven :
    0 < 2 ∧ roundMagnitude 3 2 = 2 ∧ roundMagnitude ((2 ^ 25 - 1) * 2 ^ 252) 1 = 0x7F800000 ∧
    roundMagnitude ((2 ^ 25 - 1) * 2 ^ 252 - 1) 1 < 0x7F800000 := by decide +kernel

/-- 0.5 + 0.5 = 1.0 and 0.5 * 2.0 = 1.0, exactly. -/
theorem witness_ExactResultsAreExact :
    isFinite 0x3F000000 = true ∧ isFinite 0x40000000 = true ∧ isFinite 0x3F800000 = true ∧ isZero 0x3F800000 = false ∧
    scaledValue 0x3F000000 + scaledValue 0x3F000000 = scaledValue 0x3F800000 ∧
    scaledValue 0x3F000000 * scaledValue 0x40000000 = scaledValue 0x3F800000 * 2 ^ 149 := by decide +kernel

theorem witness_ArithmeticCommutes : isNaN 0xFF800000 = false ∧ isNaN 0x80000000 = false := by decide

theorem witness_SubtractingItselfIsZero :
    isFinite 0x7F7FFFFF = true ∧ isInf 0xFF800000 = true ∧ isZero 0x7F7FFFFF = false ∧ isZero 0x80000000 = true := by
  decide

/-- Each end point, at a zero and a nonzero coefficient of each bank. -/
theorem witness_InterpEndPoints :
    let e (x : Word) := (fresh tbA).engine (dsp 4 x)
    (e 0).config.wf = true ∧ (e 0).config.numerics = .file40 ∧ (e 0).inst.speedPercent = 0x00000000#32 ∧
    (e 0x80000000).inst.speedPercent = 0x80000000#32 ∧ (e 0x3F800000).inst.speedPercent = 0x3F800000#32 ∧
    isZero tbA.coefLow[0] = false ∧ isZero tbA.coefLow[1] = true ∧
    isZero tbA.coefHigh[1] = false ∧ isZero tbA.coefHigh[0] = true := by decide +kernel

/-- A NaN and an infinite speed; zero coefficients, two of one sign, and two of opposite signs. -/
theorem witness_InterpBeyondTheRange :
    let cfg : Config := { tbA with coefHigh := bankTail 0xBF800000 0x3F800000 }
    cfg.wf = true ∧ cfg.numerics = .file40 ∧ isNaN ((fresh cfg).engine (dsp 4 0x7FC00001)).inst.speedPercent = true ∧
    ((fresh cfg).engine (dsp 4 0x7F800000)).inst.speedPercent = 0x7F800000#32 ∧
    ((fresh cfg).engine (dsp 4 0xFF800000)).inst.speedPercent = 0xFF800000#32 ∧
    isZero cfg.coefLow[0] = false ∧ isZero cfg.coefHigh[0] = false ∧
    signBit cfg.coefLow[0] ≠ signBit cfg.coefHigh[0] ∧ isZero cfg.coefLow[1] = true := by decide +kernel

theorem witness_InterpWritesTheBlend :
    (numerics engine4.config).fsub32 0x3F800000#32 engine4.inst.speedPercent = some 0x00000000#32 ∧
    (numerics engine4.config).fmul32 engine4.config.coefLow[0] 0x00000000#32 = some 0x00000000#32 ∧
    (numerics engine4.config).fmul32 engine4.config.coefHigh[0] engine4.inst.speedPercent = some 0x00000000#32 ∧
    (numerics engine4.config).fadd32 0x00000000#32 0x00000000#32 = some 0x00000000#32 := by decide +kernel

/-- An empty ring, with coefficients that make every product `-0`. -/
theorem witness_MacOfZerosIsPositiveZero :
    let e := { engine4 with work := { engine4.work with eff := Vector.replicate Config.taps 0xBF800000#32 } }
    e.config.numerics = .file40 ∧
    ∀ i : Fin Config.taps, ∃ z, fmul32 (rread e.inst 1 0 i.val) e.work.eff[i] = some z ∧ isZero z = true :=
  ⟨rfl, fun i => ⟨0x80000000#32, by revert i; decide +kernel, by decide⟩⟩

theorem witness_ReadAfterWriteReturnsTheValue : Memory.wf (dsp 4 0).ring = true := by decide

theorem witness_RingIndicesAreInRange : (dsp 4 0).capacity ≠ 0#32 := by decide

/-- A capacity that holds all 42 indices of two channels, and one that does not. -/
theorem witness_TapIndicesDistinctExactly :
    1 ≤ 2 ∧ (dsp 6 0).capacity ≠ 0#32 ∧ 21 * 2 ≤ (dsp 6 0).capacity.toNat ∧ (dsp 5 0).capacity ≠ 0#32 ∧
    ¬21 * 2 ≤ (dsp 5 0).capacity.toNat := by decide

/-- Both errors that set `fault`. -/
theorem witness_FaultIsSetOnlyByTwoErrors :
    (fresh tbA).fault = false ∧ (after (exec .release (fresh tbA))).map State.fault = some true ∧
    nearEnd.fault = false ∧ (after (exec (.process 2 1 1) nearEnd)).map State.fault = some true := by decide +kernel

theorem witness_AliveChangesOnlyByLifecycle :
    (fresh tbA).alive = false ∧ (after (exec (.create 4) (fresh tbA))).map State.alive = some true ∧
    live.alive = true ∧ (after (exec .release live)).map State.alive = some false := by decide +kernel

/-- SETF changes the speed, PROCESS the pointer. -/
theorem witness_InstanceRegistersAreStable :
    live.inst = some (dsp 256 0x3F000000) ∧
    ((after (exec (.setf 1 0) live)).bind State.inst).map DspState.speedPercent = some 0 ∧
    ((after (exec (.process 1 0 0) live)).bind State.inst).map DspState.sampleCount = some 257 := by decide +kernel

theorem witness_BanksNeverChange : (after (step { live with inputs := [.reset] })).isSome = true := by decide +kernel

end Sys2Proof.Tests
end

section
/-! SUPPORT. The invariant at reset: the parameters after reset are legal whatever the open ones are (spec 00 R6),
and there is no instance yet (10 R34). -/

namespace Sys2Proof.Machine

/-- An exponent of all ones has bit 23 of the word set, so a word without that bit is finite (spec 40 R80, R81). -/
theorem isFinite_of_bit23_clear (w : Word) (h : w[23] = false) : isFinite w = true := by
  rw [isFinite, bne_iff_ne]
  intro hexp
  have hfield : w.extractLsb' 23 8 = 255#8 := BitVec.eq_of_toNat_eq hexp
  have hset : w[23] = true := by simpa using congrArg (·.getLsbD 0) hfield
  exact Bool.false_ne_true (h.symm.trans hset)

@[simp] theorem isFinite_makeFinite (w : Word) : isFinite (makeFinite w) = true := by
  unfold makeFinite
  split
  · assumption
  · exact isFinite_of_bit23_clear _ (by simp)

/-- The constraints on the parameters, one by one (spec 00 R6). -/
theorem config_wf_iff (cfg : Config) :
    cfg.wf = true ↔ (∀ i : Fin Config.taps, isFinite cfg.coefLow[i] = true) ∧
      (∀ i : Fin Config.taps, isFinite cfg.coefHigh[i] = true) ∧ cfg.ringWords < 2 ^ 32 ∧ 1 ≤ cfg.scw ∧
      cfg.ringWords / 8 ≤ cfg.maxSampleCount ∧ cfg.nanResult.wf = true := by
  simp [Config.wf, Fin.forall_iff, and_assoc]

/-- The parameters after reset are legal for every value of the open ones: each coefficient is made finite, and
`RING_WORDS` is a 32-bit word, an eighth of which is within the 32-bit ring pointer (spec 00 R6). -/
theorem platform_wf : Config.platform.wf = true := by
  have hring : Config.platform.ringWords < 2 ^ 32 := Config.openRingWords.isLt
  have hpointer : Config.platform.ringWords / 8 ≤ 2 ^ 32 - 1 := by omega
  refine (config_wf_iff _).2 ⟨fun i => ?low, fun i => ?high, hring, by decide, hpointer, rfl⟩
  case low => simp [Config.platform]
  case high => simp [Config.platform]

/-- Settles O9: the parameters are legal by `platform_wf`, OUT lists no word, and there is no instance. -/
theorem resetMeetsInvariant : Obligations.ResetMeetsInvariant := by
  unfold Obligations.ResetMeetsInvariant StateInv
  have hnone : ∀ d, State.reset.inst = some d → DspInv State.reset.config d := nofun
  exact ⟨platform_wf, rfl, Memory.wf_nil, hnone⟩

end Sys2Proof.Machine
end

section
/-! SUPPORT. What a whole PROCESS changes of the instance and of the memories (spec 43 R125, R126): the pointer
advances by the frames, the registers stay, and the ring and OUT keep their canonical form. -/

namespace Sys2Proof.Machine

/-- What no frame changes of the instance, no PROCESS changes. -/
theorem processBlock_same {β : Type} (g : DspState → β) (o : ProcessOperands) (e : Engine)
    (hframe : ∀ s e, g (processFrame o s e).inst = g e.inst) : g (processBlock o e).inst = g e.inst :=
  fold_same (fun x : Engine => g x.inst) _ _ (interp e) fun s _ a => hframe s a

section Block

variable (o : ProcessOperands) (e : Engine)

@[simp] theorem processBlock_blockSize : (processBlock o e).inst.blockSize = e.inst.blockSize :=
  processBlock_same DspState.blockSize o e (processFrame_blockSize o)
@[simp] theorem processBlock_capacity : (processBlock o e).inst.capacity = e.inst.capacity :=
  processBlock_same DspState.capacity o e (processFrame_capacity o)
@[simp] theorem processBlock_speedPercent : (processBlock o e).inst.speedPercent = e.inst.speedPercent :=
  processBlock_same DspState.speedPercent o e (processFrame_speedPercent o)
@[simp] theorem processBlock_volumeLinear : (processBlock o e).inst.volumeLinear = e.inst.volumeLinear :=
  processBlock_same DspState.volumeLinear o e (processFrame_volumeLinear o)
@[simp] theorem processBlock_channelsField : (processBlock o e).inst.channelsField = e.inst.channelsField :=
  processBlock_same DspState.channelsField o e (processFrame_channelsField o)

/-- `n` frames advance the pointer by `n` (spec 42 R116, R117). -/
theorem fold_processFrame_sampleCount (n : Nat) :
    (Nat.fold n (fun s _ => processFrame o s) e).inst.sampleCount = e.inst.sampleCount + n := by
  induction n with
  | zero => rfl
  | succ n ih => rw [Nat.fold_succ, processFrame_sampleCount, ih, Nat.add_assoc]

@[simp] theorem processBlock_sampleCount :
    (processBlock o e).inst.sampleCount = e.inst.sampleCount + o.frames :=
  fold_processFrame_sampleCount o (interp e) o.frames

end Block

/-- The memories a PROCESS writes are canonical, and the ring, which has a word, lists none at or above `capacity`. -/
structure Engine.Canonical (e : Engine) : Prop where
  out_wf : Memory.wf e.out = true
  ring_wf : Memory.wf e.inst.ring = true
  ring_below : ∀ cell ∈ e.inst.ring, cell.1 < e.inst.capacity.toNat
  capacity_pos : 0 < e.inst.capacity.toNat

/-- RWRITE writes below `capacity` (spec 42 R111, R113), and the store to OUT may go anywhere. -/
theorem Engine.Canonical.processSample {e : Engine} (h : e.Canonical) (o : ProcessOperands) (s c : Nat) :
    (processSample o s c e).Canonical where
  out_wf := Memory.wf_write _ _ _ h.out_wf
  ring_wf := by simpa using Memory.wf_write _ _ _ h.ring_wf
  ring_below := by
    have hindex : writeIndex e.inst o.outChannels c < e.inst.capacity.toNat := floorMod_lt _ _ h.capacity_pos
    simpa using Memory.write_below _ _ _ _ hindex h.ring_below
  capacity_pos := by simpa using h.capacity_pos

theorem Engine.Canonical.processFrame {e : Engine} (h : e.Canonical) (o : ProcessOperands) (s : Nat) :
    (processFrame o s e).Canonical := by
  have hchannels := fold_keeps Engine.Canonical o.outChannels (fun c _ => Machine.processSample o s c) e h
    fun c _ _ ha => ha.processSample o s c
  exact ⟨hchannels.out_wf, hchannels.ring_wf, hchannels.ring_below, hchannels.capacity_pos⟩

theorem Engine.Canonical.processBlock {e : Engine} (h : e.Canonical) (o : ProcessOperands) :
    (processBlock o e).Canonical := by
  have hinterp : (interp e).Canonical := ⟨h.out_wf, h.ring_wf, h.ring_below, h.capacity_pos⟩
  exact fold_keeps Engine.Canonical o.frames _ _ hinterp fun s _ _ ha => ha.processFrame o s

end Sys2Proof.Machine
end

section
/-! SUPPORT. What a command can do to the parameters, to `fault` and to `alive`, and what a step keeps: said once
here for the statements about the state. -/

namespace Sys2Proof.Machine

/-- A new instance holds the creation values, each within its register, when its ring fits (spec 10 R35). -/
theorem newInstance_toNat (b n : Nat) (h : 8 * b < 2 ^ 32) :
    (newInstance b n).blockSize.toNat = b ∧ (newInstance b n).capacity.toNat = 8 * b := by
  simp only [newInstance, Config.maxch, BitVec.toNat_ofNat]
  omega

/-- A command that fails one of the two common checks is answered with that error. -/
theorem exec_of_entryCheck_some {i : Instr} {s : State} {e : Status} (h : s.entryCheck i = some e) :
    exec i s = .next (s.raise e) := by
  cases i <;> simp [exec, execCreate, execProcess, execGetb, execSetf, execGetf, execRelease, h]

/-- Neither of the two common checks sets `fault`. -/
theorem setsFault_of_entryCheck {i : Instr} {s : State} {e : Status} (h : s.entryCheck i = some e) :
    e.setsFault = false := by
  rcases entryCheck_some s i e h with ⟨-, rfl⟩ | ⟨-, -, rfl⟩ <;> rfl

/-- What a command makes of the state it meets, one constructor per case of `exec_cases`. -/
inductive Effect (s : State) : Instr → State → Prop
  | error (i : Instr) (e : Status) (hne : e ≠ .ok) : Effect s i (s.raise e)
  | created (b : Nat) (hinst : s.inst = none) (hfits : Config.maxch * b ≤ s.config.ringWords) :
      Effect s (.create b) (((s.withInst (some (newInstance b s.draws))).drew 2).respond .ok 0#32 0#32)
  | processed (f n : Nat) (d : DspState) (hinst : s.inst = some d)
      (hcheck : processCheck s.config ⟨f, n, n⟩ d = none) :
      Effect s (.process f n n) ((s.commit (processBlock ⟨f, n, n⟩ (s.engine d))).respond .ok 0#32 0#32)
  | speedSet (v : Word) (d : DspState) (hinst : s.inst = some d) :
      Effect s (.setf 1 v) ((s.withInst (some { d with speedPercent := v })).respond .ok 0#32 0#32)
  | answered (i : Instr) (a b : Word) : Effect s i (s.respond .ok a b)
  | released : Effect s .release ((s.withInst none).respond .ok 0#32 0#32)

/-- `exec_cases` about a known next state. -/
theorem exec_effect {i : Instr} {s t : State} (h : exec i s = .next t) : Effect s i t := by
  obtain ⟨e, hne, he⟩ | ⟨b, rfl, hinst, -, hfits, he⟩ | ⟨f, n, d, rfl, hinst, -, hcheck, he⟩ |
    ⟨v, d, rfl, hinst, -, he⟩ | ⟨a, b, d, -, -, he⟩ | ⟨d, rfl, -, -, he⟩ := exec_cases i s <;> cases he.symm.trans h
  · exact .error i e hne
  · exact .created b hinst hfits
  · exact .processed f n d hinst hcheck
  · exact .speedSet v d hinst
  · exact .answered i a b
  · exact .released

/-- No command changes the parameters (spec 10 R25). -/
theorem exec_config {i : Instr} {s t : State} (h : exec i s = .next t) : t.config = s.config := by
  cases exec_effect h <;> simp

/-- CREATE never sets `fault`: it is the one command that needs no instance (spec 60 R171). -/
theorem exec_create_fault {b : Nat} {s t : State} (hcheck : s.entryCheck (.create b) = none)
    (h : exec (.create b) s = .next t) : t.fault = s.fault := by
  simp only [exec, execCreate, hcheck, Host.Outcome.next.injEq] at h
  subst h
  split_ifs <;> simp [Status.setsFault]

/-- With an instance, only a PROCESS past the end of the pointer sets `fault` (spec 60 R172). -/
theorem exec_living_fault {i : Instr} {s t : State} {d : DspState} (hcheck : s.entryCheck i = none)
    (hinst : s.inst = some d) (h : exec i s = .next t) :
    t.fault = s.fault ∨ ∃ f n, i = .process f n n ∧ s.config.maxSampleCount < d.sampleCount + f := by
  cases i with
  | create b => exact .inl (exec_create_fault hcheck h)
  | process f n m =>
    simp only [exec, execProcess, hcheck, hinst, Host.Outcome.next.injEq] at h
    subst h
    rcases hp : processCheck s.config ⟨f, n, m⟩ d with _ | e
    · simp
    · obtain ⟨-, rfl⟩ | ⟨-, -, rfl⟩ | ⟨hstride, -, hend, -⟩ := processCheck_some _ _ _ _ hp
      · simp [Status.setsFault]
      · simp [Status.setsFault]
      · obtain rfl : n = m := hstride
        exact .inr ⟨f, n, rfl, hend⟩
  | getb x | setf x v | getf x =>
    simp only [exec, execGetb, execSetf, execGetf, hcheck, hinst, Host.Outcome.next.injEq] at h
    subst h
    split_ifs <;> simp [Status.setsFault]
  | release =>
    simp only [exec, execRelease, hcheck, hinst, Host.Outcome.next.injEq] at h
    subst h
    simp

/-- What a command makes of `fault` (spec 10 R16, 60 R171, R172). -/
theorem exec_fault {i : Instr} {s t : State} (h : exec i s = .next t) :
    t.fault = s.fault ∨ (s.inst = none ∧ ∀ b, i ≠ .create b) ∨
    ∃ f n d, i = .process f n n ∧ s.inst = some d ∧ s.config.maxSampleCount < d.sampleCount + f := by
  rcases hcheck : s.entryCheck i with _ | e
  · rcases hinst : s.inst with _ | d
    · by_cases hcreate : ∃ b, i = .create b
      · obtain ⟨b, rfl⟩ := hcreate
        exact .inl (exec_create_fault hcheck h)
      · exact .inr (.inl ⟨rfl, not_exists.1 hcreate⟩)
    · obtain hkept | ⟨f, n, rfl, hend⟩ := exec_living_fault hcheck hinst h
      · exact .inl hkept
      · exact .inr (.inr ⟨f, n, d, rfl, rfl, hend⟩)
  · cases (exec_of_entryCheck_some hcheck).symm.trans h
    simp [setsFault_of_entryCheck hcheck]

/-- A command that brings an instance is a CREATE that responds OK (spec 10 R11). -/
theorem exec_makes_alive {i : Instr} {s t : State} (h : exec i s = .next t) (hdead : s.alive = false)
    (halive : t.alive = true) :
    (∃ b, i = .create b) ∧ t.responses s.port = ⟨.ok, 0#32, 0#32⟩ :: s.responses s.port := by
  cases exec_effect h with
  | created b => exact ⟨⟨b, rfl⟩, by simp⟩
  | error | answered => simp [hdead] at halive
  | processed _ _ _ hinst | speedSet _ _ hinst => simp [State.alive, hinst] at hdead
  | released => simp at halive

/-- A command that ends an instance is a RELEASE that responds OK (spec 10 R11). -/
theorem exec_ends_alive {i : Instr} {s t : State} (h : exec i s = .next t) (halive : s.alive = true)
    (hdead : t.alive = false) :
    i = .release ∧ t.responses s.port = ⟨.ok, 0#32, 0#32⟩ :: s.responses s.port := by
  cases exec_effect h with
  | released => exact ⟨rfl, by simp⟩
  | error | answered => simp [halive] at hdead
  | created | processed | speedSet => simp [State.alive] at hdead

/-- What every input keeps, every step keeps: an idle step changes nothing, and the ports only say where a word comes
from and which IN words come with it (spec 20 R52, 60 R185). -/
theorem step_keeps (P : State → Prop) {s t : State} (h0 : P s) (h : step s = .next t)
    (hinputs : ∀ s rest, P s → P { s with inputs := rest })
    (hacceptC : ∀ s ins, P s → P (s.acceptC ins)) (hacceptP : ∀ s, P s → P s.acceptP)
    (hexec : ∀ i s t, P s → exec i s = .next t → P t) (hraise : ∀ s e, P s → P (s.raise e))
    (hreset : ∀ s, P s → P s.hardwareReset) (hduring : ∀ s w, P s → P (s.resetDuring w)) : P t := by
  have hword : ∀ w s, P s → performWord w s = .next t → P t := by
    intro w s h0 h
    unfold performWord at h
    split at h
    · exact hexec _ _ _ h0 h
    · cases h
      exact hraise _ _ h0
  unfold step at h
  split at h
  · cases h
    exact h0
  · next ev rest _ =>
    have h1 := hinputs s rest h0
    cases ev with
    | commandC w ins => exact hword w _ (hacceptC _ ins h1) h
    | commandP w => exact hword w _ (hacceptP _ h1) h
    | reset =>
      cases h
      exact hreset _ h1
    | resetDuring w =>
      cases h
      exact hduring _ w h1

end Sys2Proof.Machine
end

section
/-! SUPPORT. The invariant of the block is kept by every command and every reset (spec 10 R13, R14, R18, R28). -/

namespace Sys2Proof.Machine

@[simp] theorem stateInv_respond (s : State) (st : Status) (a b : Word) :
    StateInv (s.respond st a b) ↔ StateInv s := by
  simp [StateInv]

@[simp] theorem stateInv_raise (s : State) (e : Status) : StateInv (s.raise e) ↔ StateInv s := by
  simp [StateInv]

/-- A new instance that fits the ring RAM meets the invariant (spec 00 R6, 10 R18, R35). -/
theorem newInstance_inv {cfg : Config} {b : Nat} (n : Nat) (hcfg : cfg.wf = true) (hfits : 8 * b ≤ cfg.ringWords) :
    DspInv cfg (newInstance b n) := by
  obtain ⟨-, -, hring, -, hpointer, -⟩ := (config_wf_iff cfg).1 hcfg
  obtain ⟨hblock, hcapacity⟩ := newInstance_toNat b n (by omega)
  have hcount : (newInstance b n).sampleCount = b := rfl
  have hempty : (newInstance b n).ring = [] := rfl
  refine ⟨by omega, by omega, by omega, by omega, by simp [hempty], by simp [hempty]⟩

/-- A PROCESS that passes its checks keeps the facts about the instance, and OUT canonical (spec 43 R125). -/
theorem processBlock_inv {cfg : Config} {o : ProcessOperands} {e : Engine} (hout : Memory.wf e.out = true)
    (hinst : DspInv cfg e.inst) (hcheck : processCheck cfg o e.inst = none) :
    Memory.wf (processBlock o e).out = true ∧ DspInv cfg (processBlock o e).inst := by
  obtain ⟨hcapacity, hfits, hstart, -, hwf, hbelow⟩ := hinst
  obtain ⟨-, hnonzero, hend⟩ := (processCheck_none cfg o e.inst).1 hcheck
  have hpos : 0 < e.inst.capacity.toNat :=
    Nat.pos_of_ne_zero fun h => hnonzero (BitVec.eq_of_toNat_eq h)
  have hcanonical := Engine.Canonical.processBlock ⟨hout, hwf, hbelow, hpos⟩ o
  refine ⟨hcanonical.out_wf, ?_, ?_, ?_, ?_, hcanonical.ring_wf, hcanonical.ring_below⟩
  · simpa using hcapacity
  · simpa using hfits
  · simpa using Nat.le_add_right_of_le hstart
  · simpa using hend

/-- Every command keeps the invariant of the block. -/
theorem exec_keeps_stateInv {i : Instr} {s t : State} (hs : StateInv s) (h : exec i s = .next t) : StateInv t := by
  have ⟨hcfg, hseq, hout, hinst⟩ := hs
  cases exec_effect h with
  | error i e => exact (stateInv_raise s e).2 hs
  | created b _ hfits =>
    rw [stateInv_respond]
    exact ⟨hcfg, hseq, hout, fun d hd => by cases hd; exact newInstance_inv s.draws hcfg hfits⟩
  | processed f n d hd hcheck =>
    rw [stateInv_respond]
    obtain ⟨hout', hinst'⟩ := processBlock_inv (e := s.engine d) hout (hinst d hd) hcheck
    exact ⟨hcfg, hseq, hout', fun d' hd' => by cases hd'; exact hinst'⟩
  | speedSet v d hd =>
    rw [stateInv_respond]
    exact ⟨hcfg, hseq, hout, fun d' hd' => by cases hd'; exact hinst d hd⟩
  | answered i a b => exact (stateInv_respond s _ a b).2 hs
  | released =>
    rw [stateInv_respond]
    exact ⟨hcfg, hseq, hout, nofun⟩

end Sys2Proof.Machine
end

section
/-! SUPPORT. The sequencer against the loops of 43 R126: each loop of PROCESS is a counted run of busy ticks, and a run
of the engine is a run of the block. -/

namespace Sys2Proof.Machine

/-- `n` ticks lead from one position and engine to another, and none of them starts at IDLE. -/
inductive Ticks (o : ProcessOperands) : Nat → Seq × Engine → Seq × Engine → Prop
  | none (p : Seq × Engine) : Ticks o 0 p p
  | tick {n : Nat} {q : Seq} {e : Engine} {p : Seq × Engine} (hbusy : q ≠ .idle)
      (hrest : Ticks o n (microStep o q e) p) : Ticks o (n + 1) (q, e) p

theorem Ticks.single {o : ProcessOperands} {q : Seq} (e : Engine) (hbusy : q ≠ .idle) :
    Ticks o 1 (q, e) (microStep o q e) := .tick hbusy (.none _)

theorem Ticks.trans {o : ProcessOperands} {m n : Nat} {p p' p'' : Seq × Engine} (h : Ticks o m p p')
    (h' : Ticks o n p' p'') : Ticks o (m + n) p p'' := by
  induction h with
  | none => simpa using h'
  | @tick m _ _ _ hbusy _ ih =>
    rw [Nat.add_right_comm]
    exact .tick hbusy (ih h')

/-- A counted loop whose every turn is `m` ticks. -/
theorem Ticks.loop {o : ProcessOperands} {m : Nat} (n : Nat) (pos : Nat → Seq)
    (turn : (i : Nat) → i < n → Engine → Engine) (e : Engine)
    (hturn : ∀ i h e, Ticks o m (pos i, e) (pos (i + 1), turn i h e)) :
    Ticks o (n * m) (pos 0, e) (pos n, Nat.fold n turn e) := by
  induction n with
  | zero => simpa using Ticks.none (o := o) (pos 0, e)
  | succ n ih =>
    rw [Nat.succ_mul, Nat.fold_succ]
    exact (ih _ fun i h => hturn i (by omega)).trans (hturn n (by omega) _)

/-- The taps of MAC, one by one from `acc = F(+0.0)`, draw the same free values as MAC in one (spec 43 R128). -/
theorem fold_macTap (nch c n : Nat) (hn : n ≤ Config.taps) (e : Engine) :
    Nat.fold n (fun i h => macTap nch c ⟨i, by omega⟩) (macStart e) =
      { e with
        work := { e.work with
          acc := Nat.fold n (fun i h acc => tapSum e nch c ⟨i, by omega⟩ (2 * i) acc) posZero }
        draws := e.draws + 2 * n } := by
  induction n with
  | zero => rfl
  | succ n ih =>
    rw [Nat.fold_succ, ih (by omega), Nat.fold_succ]
    rfl

theorem fold_macTap_taps (nch c : Nat) (e : Engine) :
    Nat.fold Config.taps (fun i h => macTap nch c ⟨i, h⟩) (macStart e) = mac nch c e :=
  fold_macTap nch c Config.taps le_rfl e

/-- The position before channel `c` of frame `s`: its RWRITE, or the ADVANCE of the frame after the last channel. -/
def channelStart (o : ProcessOperands) (s c : Nat) : Seq :=
  if c < o.outChannels then .busy .write s c 0 else .busy .advance s 0 0

theorem frameStart_of_lt {o : ProcessOperands} {s : Nat} (h : s < o.frames) :
    frameStart o s = channelStart o s 0 := if_pos h

theorem frameStart_frames (o : ProcessOperands) : frameStart o o.frames = .idle := if_neg (Nat.lt_irrefl _)

theorem channelStart_of_lt {o : ProcessOperands} {s c : Nat} (h : c < o.outChannels) :
    channelStart o s c = .busy .write s c 0 := if_pos h

theorem channelStart_outChannels (o : ProcessOperands) (s : Nat) :
    channelStart o s o.outChannels = .busy .advance s 0 0 := if_neg (Nat.lt_irrefl _)

/-- A tap before the last goes on to the next tap. -/
theorem microStep_tap (o : ProcessOperands) (s c i : Nat) (hi : i < 20) (e : Engine) :
    microStep o (.busy .mac s c i) e =
      (.busy .mac s c (i + 1), macTap o.outChannels c ⟨i, Nat.lt_succ_of_lt hi⟩ e) := by
  have htap : i < Config.taps := Nat.lt_succ_of_lt hi
  have hnext : i + 1 < Config.taps := Nat.succ_lt_succ hi
  simp only [microStep, dif_pos htap, if_pos hnext]

/-- The last tap stores the sample and goes on to the next channel. -/
theorem microStep_lastTap (o : ProcessOperands) (s c : Nat) (e : Engine) :
    microStep o (.busy .mac s c 20) e =
      (channelStart o s (c + 1), storeSample o s c (macTap o.outChannels c 20 e)) := by
  have htap : 20 < Config.taps := by decide
  have hlast : ¬20 + 1 < Config.taps := by decide
  simp only [microStep, channelStart, dif_pos htap, if_neg hlast]
  split_ifs <;> rfl

/-- MAC and the store of its sample are 21 ticks, one a tap (spec 43 R128, R129). -/
theorem ticks_mac (o : ProcessOperands) (s c : Nat) (e : Engine) :
    Ticks o Config.taps (.busy .mac s c 0, macStart e)
      (channelStart o s (c + 1), storeSample o s c (mac o.outChannels c e)) := by
  have htaps := Ticks.loop 20 (.busy .mac s c) (fun i h => macTap o.outChannels c ⟨i, Nat.lt_succ_of_lt h⟩)
    (macStart e) fun i h e => microStep_tap o s c i h e ▸ Ticks.single e (by simp)
  rw [← fold_macTap_taps, Nat.fold_succ]
  exact htaps.trans (microStep_lastTap o s c _ ▸ Ticks.single _ (by simp))

/-- One sample is one RWRITE and 21 taps (spec 43 R126). -/
theorem ticks_processSample (o : ProcessOperands) (s c : Nat) (hc : c < o.outChannels) (e : Engine) :
    Ticks o (1 + Config.taps) (channelStart o s c, e) (channelStart o s (c + 1), processSample o s c e) := by
  have hwrite : Ticks o 1 (.busy .write s c 0, e) (.busy .mac s c 0, macStart (fetchAndWrite o s c e)) :=
    Ticks.single e (by simp)
  rw [channelStart_of_lt hc]
  exact hwrite.trans (ticks_mac o s c _)

/-- One frame is its channels and one ADVANCE (spec 43 R126). -/
theorem ticks_processFrame (o : ProcessOperands) (s : Nat) (hs : s < o.frames) (e : Engine) :
    Ticks o (o.outChannels * (1 + Config.taps) + 1) (frameStart o s, e) (frameStart o (s + 1), processFrame o s e) := by
  have hchannels := Ticks.loop o.outChannels (channelStart o s) (fun c _ => processSample o s c) e
    fun c h e => ticks_processSample o s c h e
  rw [channelStart_outChannels] at hchannels
  rw [frameStart_of_lt hs]
  exact hchannels.trans (Ticks.single _ (by simp))

/-- A PROCESS is one INTERP and its frames, and then the sequencer is idle (spec 43 R125, R126). -/
theorem ticks_processBlock (o : ProcessOperands) (e : Engine) :
    Ticks o (processTicks o) (.busy .interp 0 0 0, e) (.idle, processBlock o e) := by
  have hinterp : Ticks o 1 (.busy .interp 0 0 0, e) (frameStart o 0, interp e) := Ticks.single e (by simp)
  have hframes := Ticks.loop o.frames (frameStart o) (fun s _ => processFrame o s) (interp e)
    fun s h e => ticks_processFrame o s h e
  rw [frameStart_frames] at hframes
  exact hinterp.trans hframes

/-- No tick changes the parameters or IN, which a PROCESS only reads. -/
theorem microStep_reads (o : ProcessOperands) (q : Seq) (e : Engine) :
    (microStep o q e).2.config = e.config ∧ (microStep o q e).2.inBuf = e.inBuf := by
  rcases q with _ | ⟨_ | _ | _ | _, s, c, i⟩
  case busy.mac =>
    simp only [microStep]
    split_ifs <;> exact ⟨rfl, rfl⟩
  all_goals exact ⟨rfl, rfl⟩

/-- The block with the sequencer and the engine at `p`. -/
def State.inside (s : State) (p : Seq × Engine) : State := { s.commit p.2 with seq := p.1 }

/-- A tick of the block is a tick of its engine. -/
theorem State.tick_inside (o : ProcessOperands) (s : State) (q : Seq) (e : Engine) (hconfig : e.config = s.config)
    (hin : e.inBuf = s.inBuf) : State.tick o (s.inside (q, e)) = s.inside (microStep o q e) := by
  have hengine : (s.inside (q, e)).engine e.inst = e := by
    cases e
    cases hconfig
    cases hin
    rfl
  exact congrArg (fun x => s.inside (microStep o q x)) hengine

theorem Ticks.inside {o : ProcessOperands} {n : Nat} {p p' : Seq × Engine} (h : Ticks o n p p') (s : State)
    (hconfig : p.2.config = s.config) (hin : p.2.inBuf = s.inBuf) :
    (∀ k < n, ((State.tick o)^[k] (s.inside p)).seq ≠ .idle) ∧ (State.tick o)^[n] (s.inside p) = s.inside p' := by
  induction h with
  | none => simp
  | @tick n q e _ hbusy _ ih =>
    obtain ⟨hconfig', hin'⟩ := microStep_reads o q e
    obtain ⟨ihbusy, ihend⟩ := ih (hconfig'.trans hconfig) (hin'.trans hin)
    rw [Function.iterate_succ_apply, State.tick_inside o s q e hconfig hin]
    refine ⟨fun k hk => ?_, ihend⟩
    cases k with
    | zero => exact hbusy
    | succ k =>
      rw [Function.iterate_succ_apply, State.tick_inside o s q e hconfig hin]
      exact ihbusy k (by omega)

end Sys2Proof.Machine
end

section
/-! SUPPORT. The statements about the state that every step and every command obey, from the lemmas above. -/

namespace Sys2Proof.Machine

/-- Settles O10: a step is a command, an error or a reset, and each keeps the invariant. -/
theorem stepKeepsInvariant : Obligations.StepKeepsInvariant := by
  unfold Obligations.StepKeepsInvariant
  intro s t hs h
  refine step_keeps StateInv hs h (fun _ _ hs => hs) (fun _ _ hs => hs) (fun _ hs => hs)
    (fun _ _ _ => exec_keeps_stateInv) (fun s e => (stateInv_raise s e).2) ?reset ?during
  case reset =>
    rintro s ⟨hcfg, -, hout, -⟩
    exact ⟨hcfg, rfl, hout, nofun⟩
  case during =>
    rintro s w ⟨hcfg, -, hout, -⟩
    exact ⟨hcfg, rfl, wf_unspecifiedOut _ _ _ hout, nofun⟩

/-- Settles O33: the ticks of the engine are those of the block, whose PROCESS starts from its own engine. -/
theorem sequencerRefinesProcess : Obligations.SequencerRefinesProcess := by
  unfold Obligations.SequencerRefinesProcess
  intro s d o hinst
  have hstart : s.startProcess = s.inside (.busy .interp 0 0 0, s.engine d) := by
    cases s
    cases hinst
    rfl
  rw [hstart]
  exact (ticks_processBlock o (s.engine d)).inside s rfl rfl

/-- Settles O48: `exec_fault` names the two errors. -/
theorem faultIsSetOnlyByTwoErrors : Obligations.FaultIsSetOnlyByTwoErrors := by
  unfold Obligations.FaultIsSetOnlyByTwoErrors
  intro i s t h hclear hset
  obtain hkept | ⟨hnone, hcreate⟩ | ⟨f, n, d, hi, hinst, hend⟩ := exec_fault h
  · simp [hset, hclear] at hkept
  · exact .inl ⟨by simp [State.alive, hnone], hcreate⟩
  · exact .inr ⟨f, n, d, hi, hinst, hend⟩

/-- Settles O49: the two commands, and a reset removes the instance. -/
theorem aliveChangesOnlyByLifecycle : Obligations.AliveChangesOnlyByLifecycle := by
  unfold Obligations.AliveChangesOnlyByLifecycle
  refine ⟨fun _ _ _ => exec_makes_alive, fun _ _ _ => exec_ends_alive, ?_⟩
  intro s t rest w hinput h
  rcases hinput with hinput | hinput <;>
  · rw [step, hinput] at h
    cases h
    rfl

/-- Settles O50: of the effects that leave an instance where one was, only PROCESS and SETF 1 write it. -/
theorem instanceRegistersAreStable : Obligations.InstanceRegistersAreStable := by
  unfold Obligations.InstanceRegistersAreStable
  intro i s t d d' h hd hd'
  cases exec_effect h with
  | error | answered =>
    obtain rfl : d = d' := by simpa [hd] using hd'
    simp
  | created _ hinst => simp [hd] at hinst
  | processed f n d₀ hinst =>
    obtain rfl : d = d₀ := by simpa [hd] using hinst
    obtain rfl : (processBlock ⟨f, n, n⟩ (s.engine d)).inst = d' := by simpa using hd'
    simp
  | speedSet v d₀ hinst =>
    obtain rfl : d = d₀ := by simpa [hd] using hinst
    obtain rfl : { d with speedPercent := v } = d' := by simpa using hd'
    simp
  | released => simp at hd'

/-- Settles O51: no input changes the parameters. -/
theorem banksNeverChange : Obligations.BanksNeverChange := by
  unfold Obligations.BanksNeverChange
  intro s t h
  refine step_keeps (fun u => u.config = s.config) rfl h (fun _ _ hu => hu) (fun _ _ hu => hu) (fun _ hu => hu)
    (fun _ _ _ hu h => (exec_config h).trans hu) (fun u e hu => ?raise) (fun _ hu => hu) (fun _ _ hu => hu)
  case raise => rw [State.raise_config, hu]

/-- Settles O8: the values `State.reset` and `Config.platform` write. -/
theorem resetLeavesNoInstance : Obligations.ResetLeavesNoInstance := by
  unfold Obligations.ResetLeavesNoInstance
  exact ⟨rfl, rfl, rfl, rfl, rfl, rfl, rfl⟩

/-- Settles O21: the checks pass, and the new instance holds the creation values since `8 * b` is below 2^32. -/
theorem createCompletes : Obligations.CreateCompletes := by
  unfold Obligations.CreateCompletes
  intro s b hcfg hfault hport halive hfits
  obtain ⟨-, -, hring, -, -, -⟩ := (config_wf_iff s.config).1 hcfg
  obtain ⟨hblock, hcapacity⟩ := newInstance_toNat b s.draws (by omega)
  have hcheck : s.entryCheck (.create b) = none := (entryCheck_none _ _).2 ⟨hfault, by simp [hport]⟩
  have hroom : ¬Config.maxch * b > s.config.ringWords := Nat.not_lt.2 hfits
  refine ⟨newInstance b s.draws, ?_, hblock, hcapacity, rfl, rfl, fun k => Memory.read_nil k⟩
  simp only [exec, execCreate, hcheck, halive, hroom, if_false, Bool.false_eq_true]
  rfl

/-- Settles O22: the checks pass, and the instance goes. -/
theorem releaseCompletes : Obligations.ReleaseCompletes := by
  unfold Obligations.ReleaseCompletes
  intro s hfault hport halive
  obtain ⟨d, hinst⟩ := Option.isSome_iff_exists.1 halive
  have hcheck : s.entryCheck .release = none := (entryCheck_none _ _).2 ⟨hfault, by simp [hport]⟩
  simp only [exec, execRelease, hcheck, hinst]
  rfl

end Sys2Proof.Machine
end

section
/-! SUPPORT. A P-port command in the middle of a PROCESS: what it answers and stores depends on `fault` and the speed
alone, which no tick writes and only INTERP reads (spec 20 R52). -/

namespace Sys2Proof.Machine

open Sys2Proof.Claims

/-- The instance with the word of a SETF stored. -/
def DspState.withSpeed (d : DspState) (w : Word) : DspState := { d with speedPercent := w }

/-- The engine with the word of a SETF stored. -/
def Engine.withSpeed (e : Engine) (w : Word) : Engine := { e with inst := e.inst.withSpeed w }

/-- The block after a P-port command: one more response, `fault`, and the speed of the instance if there is one. -/
def State.answeredP (s : State) (r : Response) (fault : Bool) (w : Word) : State :=
  { s with rspP := r :: s.rspP, fault := fault, inst := s.inst.map fun d => d.withSpeed w }

/-- Storing the speed an instance has changes nothing. -/
theorem State.answeredP_of_speed_kept {s : State} {speed : Option Word}
    (hspeed : s.inst.map DspState.speedPercent = speed) (r : Response) (fault : Bool) :
    s.answeredP r fault (speed.getD posZero) = { s with rspP := r :: s.rspP, fault := fault } := by
  have hkept : s.inst.map (fun d => d.withSpeed (speed.getD posZero)) = s.inst := by
    subst hspeed
    cases s.inst <;> rfl
  rw [State.answeredP, hkept]

theorem afterPPort_of_next {i : Instr} {s t : State} (h : exec i s.acceptP = .next t) :
    afterPPort i s = { t with port := s.port } := by
  change exec i { s with port := .p } = _ at h
  rw [afterPPort, h]

/-- All blocks with this `fault` and this speed, `none` where there is no instance, answer the command `i` on the
P-port alike, and store the same. -/
def AnswersAlike (i : Instr) (fault : Bool) (speed : Option Word) : Prop :=
  ∃ r f w, ∀ s : State, s.fault = fault → s.inst.map DspState.speedPercent = speed →
    afterPPort i s = s.answeredP r f w

theorem answersAlike_of_raise {i : Instr} {fault : Bool} {speed : Option Word} (e : Status)
    (h : ∀ s : State, s.fault = fault → s.inst.map DspState.speedPercent = speed →
      exec i s.acceptP = .next (s.acceptP.raise e)) : AnswersAlike i fault speed := by
  refine ⟨⟨e, 0#32, 0#32⟩, fault || e.setsFault, speed.getD posZero, fun s hfault hspeed => ?_⟩
  rw [afterPPort_of_next (h s hfault hspeed), State.answeredP_of_speed_kept hspeed, ← hfault]
  rfl

/-- SETF 1 stores its word, and the response has no data (spec 44 R148). -/
theorem setf_answersAlike {x : Nat} (hx : floatIndexValid x = true) (v speed : Word) :
    AnswersAlike (.setf x v) false (some speed) := by
  refine ⟨⟨.ok, 0#32, 0#32⟩, false, v, fun s hfault hspeed => ?_⟩
  obtain ⟨d, hinst, rfl⟩ := Option.map_eq_some_iff.1 hspeed
  have hcheck : s.acceptP.entryCheck (.setf x v) = none := (entryCheck_none _ _).2 ⟨hfault, rfl⟩
  have hexec : exec (.setf x v) s.acceptP =
      .next ((s.acceptP.withInst (some (d.withSpeed v))).respond .ok 0#32 0#32) := by
    simp [exec, execSetf, hcheck, hinst, hx, DspState.withSpeed]
  rw [afterPPort_of_next hexec, State.answeredP, hinst, ← hfault]
  rfl

/-- GETF 1 responds with the speed and stores nothing (spec 44 R149). -/
theorem getf_answersAlike {x : Nat} (hx : floatIndexValid x = true) (speed : Word) :
    AnswersAlike (.getf x) false (some speed) := by
  refine ⟨⟨.ok, speed, 0#32⟩, false, speed, fun s hfault hspeed => ?_⟩
  obtain ⟨d, hinst, rfl⟩ := Option.map_eq_some_iff.1 hspeed
  have hcheck : s.acceptP.entryCheck (.getf x) = none := (entryCheck_none _ _).2 ⟨hfault, rfl⟩
  have hexec : exec (.getf x) s.acceptP = .next (s.acceptP.respond .ok d.speedPercent 0#32) := by
    simp [exec, execGetf, hcheck, hinst, hx]
  rw [afterPPort_of_next hexec, ← hfault]
  exact (State.answeredP_of_speed_kept hspeed _ _).symm

/-- What SETF and GETF answer and store on the P-port depends on `fault` and on the speed alone: the checks of 60 R170
in their order, and the two commands on a valid index. -/
theorem setf_getf_answersAlike {i : Instr} (hi : ∃ x v, i = .setf x v ∨ i = .getf x) (fault : Bool)
    (speed : Option Word) : AnswersAlike i fault speed := by
  obtain ⟨x, v, hi⟩ := hi
  have haccepted : i.acceptedOn .p = true := by rcases hi with rfl | rfl <;> rfl
  cases fault with
  | true =>
    exact answersAlike_of_raise .errFaulted fun s hfault _ =>
      exec_of_entryCheck_some (by simp [State.entryCheck, hfault])
  | false =>
    have hcheck : ∀ s : State, s.fault = false → s.acceptP.entryCheck i = none :=
      fun s hfault => (entryCheck_none _ _).2 ⟨hfault, haccepted⟩
    cases speed with
    | none =>
      refine answersAlike_of_raise .errNoInstance fun s hfault hspeed => ?_
      have hinst : s.inst = none := Option.map_eq_none_iff.1 hspeed
      rcases hi with rfl | rfl <;> simp [exec, execSetf, execGetf, hcheck s hfault, hinst]
    | some speed =>
      by_cases hx : floatIndexValid x = true
      · rcases hi with rfl | rfl
        · exact setf_answersAlike hx v speed
        · exact getf_answersAlike hx speed
      · refine answersAlike_of_raise .errInvalidParam fun s hfault hspeed => ?_
        obtain ⟨d, hinst, -⟩ := Option.map_eq_some_iff.1 hspeed
        rcases hi with rfl | rfl <;> simp [exec, execSetf, execGetf, hcheck s hfault, hinst, hx]

/-- No tick but INTERP reads the speed (spec 10 R31, 41 R108). -/
theorem microStep_withSpeed (o : ProcessOperands) {q : Seq} (hq : ∀ s c i, q ≠ .busy .interp s c i) (e : Engine)
    (w : Word) : microStep o q (e.withSpeed w) = ((microStep o q e).1, (microStep o q e).2.withSpeed w) := by
  rcases q with _ | ⟨_ | _ | _ | _, s, c, i⟩
  case busy.interp => exact absurd rfl (hq s c i)
  case busy.mac =>
    simp only [microStep]
    split_ifs <;> rfl
  all_goals rfl

/-- No tick writes the speed. -/
theorem microStep_speedPercent (o : ProcessOperands) (q : Seq) (e : Engine) :
    (microStep o q e).2.inst.speedPercent = e.inst.speedPercent := by
  rcases q with _ | ⟨_ | _ | _ | _, s, c, i⟩
  case busy.mac =>
    simp only [microStep]
    split_ifs <;> rfl
  all_goals rfl

theorem frameStart_ne_interp (o : ProcessOperands) (n s c i : Nat) : frameStart o n ≠ .busy .interp s c i := by
  unfold frameStart
  split_ifs <;> simp

/-- A PROCESS samples the speed once: no tick leads to INTERP (spec 43 R126). -/
theorem microStep_ne_interp (o : ProcessOperands) (q : Seq) (e : Engine) (s c i : Nat) :
    (microStep o q e).1 ≠ .busy .interp s c i := by
  rcases q with _ | ⟨_ | _ | _ | _, s', c', i'⟩
  case busy.mac =>
    simp only [microStep]
    split_ifs <;> simp
  case busy.interp | busy.advance => exact frameStart_ne_interp o _ s c i
  all_goals simp [microStep]

theorem State.tick_of_dead (o : ProcessOperands) {s : State} (h : s.inst = none) : s.tick o = s := by
  simp [State.tick, h]

theorem State.tick_of_living (o : ProcessOperands) {s : State} {d : DspState} (h : s.inst = some d) :
    s.tick o = s.inside (microStep o s.seq (s.engine d)) := by
  simp only [State.tick, h]
  rfl

theorem State.tick_fault (o : ProcessOperands) (s : State) : (s.tick o).fault = s.fault := by
  rcases h : s.inst with _ | d
  · rw [State.tick_of_dead o h]
  · rw [State.tick_of_living o h]
    rfl

theorem State.tick_speed (o : ProcessOperands) (s : State) :
    (s.tick o).inst.map DspState.speedPercent = s.inst.map DspState.speedPercent := by
  rcases h : s.inst with _ | d
  · rw [State.tick_of_dead o h, h]
  · rw [State.tick_of_living o h]
    exact congrArg some (microStep_speedPercent o _ _)

theorem State.tick_ne_interp (o : ProcessOperands) {s : State} (hs : ∀ a b c, s.seq ≠ .busy .interp a b c)
    (a b c : Nat) : (s.tick o).seq ≠ .busy .interp a b c := by
  rcases h : s.inst with _ | d
  · rw [State.tick_of_dead o h]
    exact hs a b c
  · rw [State.tick_of_living o h]
    exact microStep_ne_interp o _ _ a b c

/-- Outside INTERP a tick works alike whatever the speed, `fault` and the P-port's responses are. -/
theorem State.tick_answeredP (o : ProcessOperands) {s : State} (hs : ∀ a b c, s.seq ≠ .busy .interp a b c)
    (r : Response) (f : Bool) (w : Word) : (s.answeredP r f w).tick o = (s.tick o).answeredP r f w := by
  rcases h : s.inst with _ | d
  · have hdead : (s.answeredP r f w).inst = none := by simp [State.answeredP, h]
    rw [State.tick_of_dead o h, State.tick_of_dead o hdead]
  · have hliving : (s.answeredP r f w).inst = some (d.withSpeed w) := by simp [State.answeredP, h]
    have hstep := microStep_withSpeed o hs (s.engine d) w
    rw [State.tick_of_living o h, State.tick_of_living o hliving]
    exact congrArg (s.answeredP r f w).inside hstep

/-- A SETF or GETF of the P-port commutes with any tick but INTERP: the tick keeps `fault` and the speed, on which the
answer depends, and does not read the speed. -/
theorem State.tick_afterPPort (o : ProcessOperands) {i : Instr} (hi : ∃ x v, i = .setf x v ∨ i = .getf x)
    {s : State} (hs : ∀ a b c, s.seq ≠ .busy .interp a b c) :
    (afterPPort i s).tick o = afterPPort i (s.tick o) := by
  obtain ⟨r, f, w, hanswer⟩ := setf_getf_answersAlike hi s.fault (s.inst.map DspState.speedPercent)
  rw [hanswer s rfl rfl, hanswer (s.tick o) (State.tick_fault o s) (State.tick_speed o s), State.tick_answeredP o hs]

/-- Settles O34: by induction on the ticks, none of which leads back to INTERP. -/
theorem pPortCommutesAfterSampling : Obligations.PPortCommutesAfterSampling := by
  unfold Obligations.PPortCommutesAfterSampling
  intro s o i n hi hs
  induction n generalizing s with
  | zero => rfl
  | succ n ih =>
    rw [Function.iterate_succ_apply, Function.iterate_succ_apply, State.tick_afterPPort o hi hs]
    exact ih _ (State.tick_ne_interp o hs)

end Sys2Proof.Machine
end

section
/-! SUPPORT. A command word in the merged order of the inputs, and a ring word read back in the same sample
(spec 20 R49, R52). -/

namespace Sys2Proof.Machine

theorem performWord_of_decode {w : CommandWord} {i : Instr} (h : decode w = .ok i) (s : State) :
    performWord w s = exec i s := by
  rw [performWord, h]

/-- Settles O6: the step takes the word off the inputs, and the port performs the command it decodes to. -/
theorem stepRunsDecodedCommand : Obligations.StepRunsDecodedCommand := by
  unfold Obligations.StepRunsDecodedCommand
  intro s w rest i hdecode
  refine ⟨fun ins hinputs => ?_, fun hinputs => ?_⟩ <;>
  · rw [step, hinputs]
    exact performWord_of_decode hdecode _

/-- Settles O45: tap 0 reads the slot the write of the same sample used, which RWRITE does not move. -/
theorem readAfterWriteReturnsTheValue : Obligations.ReadAfterWriteReturnsTheValue := by
  unfold Obligations.ReadAfterWriteReturnsTheValue
  intro d nch c v hwf
  have hslot : writeIndex (rwrite d nch c v) nch c = writeIndex d nch c := rfl
  rw [rread, ringIndex_zero, hslot, rwrite_ring]
  exact Memory.read_write_self d.ring _ v hwf

end Sys2Proof.Machine
end

section
/-! SUPPORT. The decoder, the encoder and the opcode map say the same of every word (spec 30 R61 to R68): each is read
off the fields of the word once. -/

namespace Sys2Proof

theorem field_eq (w : CommandWord) (lo len : Nat) : field w lo len = w.toNat / 2 ^ lo % 2 ^ len := by
  rw [field, BitVec.extractLsb'_toNat, Nat.shiftRight_eq_div_pow]

/-- The fields of `w` are those of the command `i`: the opcode, zeros where the format has them, and the operands
(spec 30 R62 to R66). -/
def HasFormat (w : CommandWord) : Instr → Prop
  | .create b => field w 60 4 = 1 ∧ field w 32 28 = 0 ∧ field w 0 32 = b
  | .process f i o =>
    field w 60 4 = 2 ∧ field w 48 12 = 0 ∧ field w 0 32 = f ∧ field w 40 8 = i ∧ field w 32 8 = o
  | .getb x => field w 60 4 = 3 ∧ (field w 48 12 = 0 ∧ field w 0 32 = 0) ∧ field w 32 16 = x
  | .setf x v => field w 60 4 = 4 ∧ field w 48 12 = 0 ∧ field w 32 16 = x ∧ w.extractLsb' 0 32 = v
  | .getf x => field w 60 4 = 5 ∧ (field w 48 12 = 0 ∧ field w 0 32 = 0) ∧ field w 32 16 = x
  | .release => field w 60 4 = 6 ∧ field w 0 60 = 0

/-- The decoder reads the format off the word. -/
theorem decode_eq_ok_iff_hasFormat (w : CommandWord) (i : Instr) : decode w = .ok i ↔ HasFormat w i := by
  constructor
  · intro h
    unfold decode at h
    split at h
    case h_7 => cases h
    all_goals
      split_ifs at h
      cases h
      simp_all [HasFormat]
  · intro h
    cases i <;> simp_all [HasFormat, decode]

/-- The encoder writes the format into the word, and the word holds nothing else. -/
theorem hasFormat_iff_encode (w : CommandWord) (i : Instr) :
    HasFormat w i ↔ i.wellFormed = true ∧ encode i = w := by
  have hw := w.isLt
  cases i with
  | setf x v =>
    have hv := v.isLt
    simp only [HasFormat, Instr.wellFormed, encode, place, field_eq, ← BitVec.toNat_inj, BitVec.toNat_ofNat,
      BitVec.extractLsb'_toNat, Nat.shiftRight_eq_div_pow, decide_eq_true_eq]
    omega
  | create b | process f i o | getb x | getf x | release =>
    simp only [HasFormat, Instr.wellFormed, encode, place, field_eq, ← BitVec.toNat_inj, BitVec.toNat_ofNat,
      Bool.and_eq_true, decide_eq_true_eq, true_and]
    omega

/-- Decoding and encoding are inverse to each other on the well-formed commands. -/
theorem decode_eq_ok_iff (w : CommandWord) (i : Instr) :
    decode w = .ok i ↔ i.wellFormed = true ∧ encode i = w :=
  (decode_eq_ok_iff_hasFormat w i).trans (hasFormat_iff_encode w i)

/-- Settles O1: both sides of `decode_eq_ok_iff` at the word `encode i`. -/
theorem decodeOfEncode : Obligations.DecodeOfEncode := by
  unfold Obligations.DecodeOfEncode
  exact fun i hi => (decode_eq_ok_iff (encode i) i).2 ⟨hi, rfl⟩

/-- Settles O2: the other direction of `decode_eq_ok_iff`. -/
theorem encodeOfDecode : Obligations.EncodeOfDecode := by
  unfold Obligations.EncodeOfDecode
  exact fun w i h => (decode_eq_ok_iff w i).1 h

/-- Settles O5: each word is the encoding of its command. -/
theorem exampleWordsDecode : Obligations.ExampleWordsDecode := by
  unfold Obligations.ExampleWordsDecode
  simp only [decode_eq_ok_iff]
  decide

theorem field_land (w m : CommandWord) (lo len : Nat) :
    field (w &&& m) lo len = field w lo len &&& field m lo len := by
  simp only [field, BitVec.extractLsb'_and, BitVec.toNat_and]

/-- A mask of ones keeps a field. -/
theorem field_land_ones (w : CommandWord) (lo len : Nat) : field w lo len &&& (2 ^ len - 1) = field w lo len :=
  Nat.and_two_pow_sub_one_of_lt_two_pow (BitVec.isLt _)

/-- A word is its opcode, the 12 bits below it, the index field and the low half, so a row can be matched field by
field. -/
theorem matches_iff_fields (r : OpcodeRow) (w : CommandWord) :
    r.matches w = true ↔
      field w 60 4 &&& field r.mask 60 4 = field r.fixed 60 4 ∧
      field w 48 12 &&& field r.mask 48 12 = field r.fixed 48 12 ∧
      field w 32 16 &&& field r.mask 32 16 = field r.fixed 32 16 ∧
      field w 0 32 &&& field r.mask 0 32 = field r.fixed 0 32 := by
  have hmasked := (w &&& r.mask).isLt
  have hfixed := r.fixed.isLt
  simp only [← field_land]
  simp only [OpcodeRow.matches, beq_iff_eq, ← BitVec.toNat_inj, field_eq]
  omega

theorem field_createZeros_eq_zero_iff (w : CommandWord) :
    field w 32 28 = 0 ↔ field w 48 12 = 0 ∧ field w 32 16 = 0 := by
  simp only [field_eq]
  omega

theorem field_releaseZeros_eq_zero_iff (w : CommandWord) :
    field w 0 60 = 0 ↔ field w 48 12 = 0 ∧ field w 32 16 = 0 ∧ field w 0 32 = 0 := by
  simp only [field_eq]
  omega

/-- A command is one of the six. -/
theorem exists_instr {P : Instr → Prop} :
    (∃ i, P i) ↔ (∃ b, P (.create b)) ∨ (∃ f i o, P (.process f i o)) ∨ (∃ x, P (.getb x)) ∨
      (∃ x v, P (.setf x v)) ∨ (∃ x, P (.getf x)) ∨ P .release := by
  constructor
  · rintro ⟨i, h⟩
    cases i with
    | create b => exact .inl ⟨b, h⟩
    | process f i o => exact .inr (.inl ⟨f, i, o, h⟩)
    | getb x => exact .inr (.inr (.inl ⟨x, h⟩))
    | setf x v => exact .inr (.inr (.inr (.inl ⟨x, v, h⟩)))
    | getf x => exact .inr (.inr (.inr (.inr (.inl ⟨x, h⟩))))
    | release => exact .inr (.inr (.inr (.inr (.inr h))))
  · rintro (⟨_, h⟩ | ⟨_, _, _, h⟩ | ⟨_, h⟩ | ⟨_, _, h⟩ | ⟨_, h⟩ | h) <;> exact ⟨_, h⟩

/-- A row's fixed bits are the opcode and the zeros of its format (spec 30 R68). -/
theorem matches_iff_decode (w : CommandWord) {r : OpcodeRow} (hr : r ∈ opcodeTable) :
    r.matches w = true ↔ ∃ i, decode w = .ok i ∧ i.mnemonic = r.mnemonic := by
  have hopcode : field w 60 4 &&& 15 = field w 60 4 := field_land_ones w 60 4
  have hzeros : field w 48 12 &&& 4095 = field w 48 12 := field_land_ones w 48 12
  have hindex : field w 32 16 &&& 65535 = field w 32 16 := field_land_ones w 32 16
  have hlow : field w 0 32 &&& 4294967295 = field w 0 32 := field_land_ones w 0 32
  simp only [matches_iff_fields, decode_eq_ok_iff_hasFormat, exists_instr, HasFormat, Instr.mnemonic]
  simp only [opcodeTable, List.mem_cons, List.not_mem_nil, or_false] at hr
  rcases hr with rfl | rfl | rfl | rfl | rfl | rfl <;>
    simp [Laws.OpcodeField.field_ofNat, field_createZeros_eq_zero_iff, field_releaseZeros_eq_zero_iff, hopcode,
      hzeros, hindex, hlow]

/-- Settles O3: by `matches_iff_decode`; a word decodes to one command, and no two rows have one mnemonic. -/
theorem decodeAgreesWithOpcodeTable : Obligations.DecodeAgreesWithOpcodeTable := by
  unfold Obligations.DecodeAgreesWithOpcodeTable
  have hdistinct : opcodeTable.Pairwise fun r r' => r.mnemonic ≠ r'.mnemonic := by decide
  refine ⟨fun w r hr => matches_iff_decode w hr, hdistinct.imp_of_mem fun hr hr' hne w hboth => hne ?_⟩
  obtain ⟨i, hi, hrow⟩ := (matches_iff_decode w hr).1 hboth.1
  obtain ⟨i', hi', hrow'⟩ := (matches_iff_decode w hr').1 hboth.2
  obtain rfl : i = i' := Except.ok.inj (hi.symm.trans hi')
  exact hrow.symm.trans hrow'

theorem exists_row_of_mnemonic (i : Instr) : ∃ r ∈ opcodeTable, i.mnemonic = r.mnemonic := by
  cases i <;> simp [opcodeTable, Instr.mnemonic]

/-- No row matches a word exactly when it decodes to no command. -/
theorem no_row_matches_iff (w : CommandWord) :
    (∀ r ∈ opcodeTable, r.matches w = false) ↔ ∀ i, decode w ≠ .ok i := by
  constructor
  · intro h i hi
    obtain ⟨r, hr, hrow⟩ := exists_row_of_mnemonic i
    exact Bool.false_ne_true ((h r hr).symm.trans ((matches_iff_decode w hr).2 ⟨i, hi, hrow⟩))
  · intro h r hr
    refine Bool.eq_false_iff.2 fun hmatch => ?_
    obtain ⟨i, hi, -⟩ := (matches_iff_decode w hr).1 hmatch
    exact h i hi

/-- The P-port takes the commands of opcodes 0x4 and 0x5, the C-port all (spec 30 R60, R69 c). -/
theorem acceptedOn_eq_false_iff_opcode {w : CommandWord} {i : Instr} (h : decode w = .ok i) (q : Port) :
    i.acceptedOn q = false ↔ q = .p ∧ w.extractLsb' 60 4 ≠ 4#4 ∧ w.extractLsb' 60 4 ≠ 5#4 := by
  have hformat := (decode_eq_ok_iff_hasFormat w i).1 h
  simp only [ne_eq, ← BitVec.toNat_inj, BitVec.toNat_ofNat]
  change _ ↔ q = .p ∧ field w 60 4 ≠ 4 ∧ field w 60 4 ≠ 5
  cases i <;> cases q <;> simp_all [HasFormat, Instr.acceptedOn]

end Sys2Proof
end

section
/-! SUPPORT. What an illegal word is answered, and that a legal one is never called illegal (spec 30 R69, 60 R170);
the layout of the response record and the pseudo-instructions (30 R70, R71, R73). -/

namespace Sys2Proof.Machine

open Claims

/-- A word is illegal on a port exactly when it decodes to no command the port accepts (spec 30 R69). -/
theorem illegalOn_iff (q : Port) (w : CommandWord) :
    IllegalOn q w ↔ ∀ i, decode w = .ok i → i.acceptedOn q = false := by
  rw [IllegalOn, no_row_matches_iff]
  rcases hdecode : decode w with why | i
  · simp
  · simpa using (acceptedOn_eq_false_iff_opcode hdecode q).symm

/-- On a port that does not accept it, a command gets the answer of a word that decodes to none. -/
theorem exec_of_not_acceptedOn {i : Instr} {s : State} (h : i.acceptedOn s.port = false) :
    exec i s = .next s.answerIllegal := by
  refine exec_of_entryCheck_some ?_
  cases hfault : s.fault <;> simp [State.entryCheck, h, hfault]

theorem performWord_of_error {w : CommandWord} {why : IllegalWord} (h : decode w = .error why) (s : State) :
    performWord w s = .next s.answerIllegal := by
  rw [performWord, h]

theorem State.answerIllegal_eq_respond (s : State) :
    s.answerIllegal = s.respond (if s.fault then .errFaulted else .errIllegalCommand) 0#32 0#32 :=
  s.raise_of_not_setsFault _ (by split <;> rfl)

/-- From `s` to `t` the current port returns one response, and it is not `ERR_ILLEGAL_COMMAND`. -/
def AnswersLegal (s t : State) : Prop :=
  ∃ r, t.responses s.port = r :: s.responses s.port ∧ r.status ≠ .errIllegalCommand

theorem processCheck_ne_illegal {cfg : Config} {o : ProcessOperands} {d : DspState} {e : Status}
    (h : processCheck cfg o d = some e) : e ≠ .errIllegalCommand := by
  rcases processCheck_some cfg o d e h with ⟨-, rfl⟩ | ⟨-, -, rfl⟩ | ⟨-, -, -, rfl⟩ <;> decide

/-- Past the common checks no command answers `ERR_ILLEGAL_COMMAND` (spec 60 R170). -/
theorem exec_answersLegal {i : Instr} {s : State} (h : s.entryCheck i = none) :
    ∃ t, exec i s = .next t ∧ AnswersLegal s t := by
  cases i with
  | create b =>
    refine ⟨_, rfl, ?_⟩
    simp only [h]
    split_ifs <;> simp [AnswersLegal]
  | process f n m =>
    refine ⟨_, rfl, ?_⟩
    simp only [h]
    rcases s.inst with _ | d
    · simp [AnswersLegal]
    · rcases hcheck : processCheck s.config ⟨f, n, m⟩ d with _ | e
      · simp [AnswersLegal, hcheck]
      · simpa [AnswersLegal, hcheck] using processCheck_ne_illegal hcheck
  | getb x | setf x v | getf x =>
    refine ⟨_, rfl, ?_⟩
    simp only [h]
    rcases s.inst with _ | d
    · simp [AnswersLegal]
    · dsimp only
      split_ifs <;> simp [AnswersLegal]
  | release =>
    refine ⟨_, rfl, ?_⟩
    simp only [h]
    rcases s.inst with _ | d <;> simp [AnswersLegal]

/-- Settles O4: by `illegalOn_iff`, an illegal word is one that decodes to nothing or that the port refuses. -/
theorem illegalWordsAreAnswered : Obligations.IllegalWordsAreAnswered := by
  unfold Obligations.IllegalWordsAreAnswered
  intro s w
  rw [illegalOn_iff, ← State.answerIllegal_eq_respond]
  constructor
  · intro hillegal
    rcases hdecode : decode w with why | i
    · exact performWord_of_error hdecode s
    · rw [performWord_of_decode hdecode]
      exact exec_of_not_acceptedOn (hillegal i hdecode)
  · intro hlegal hfault
    push Not at hlegal
    obtain ⟨i, hdecode, haccepted⟩ := hlegal
    have hcheck := (entryCheck_none s i).2 ⟨hfault, Bool.eq_true_of_not_eq_false haccepted⟩
    obtain ⟨t, ht, r, hr⟩ := exec_answersLegal hcheck
    exact ⟨t, r, (performWord_of_decode hdecode s).trans ht, hr⟩

/-- Settles O52: the three fields are appended in their order. -/
theorem responseRecordLayout : Obligations.ResponseRecordLayout := by
  unfold Obligations.ResponseRecordLayout
  refine ⟨fun r => ⟨?_, ?_, ?_⟩, rfl, rfl, rfl, rfl, rfl, rfl, rfl, rfl, rfl⟩
  · rw [Response.bits, BitVec.extractLsb'_append_eq_of_le (by decide)]
    exact BitVec.extractLsb'_append_eq_left
  · rw [Response.bits, BitVec.extractLsb'_append_eq_of_le (by decide)]
    exact BitVec.extractLsb'_append_eq_right
  · exact BitVec.extractLsb'_append_eq_right

/-- Settles O53: `SETSPEED` is `SETF 1` by definition, and the other two words are closed. -/
theorem pseudoInstructionsExpand : Obligations.PseudoInstructionsExpand := by
  unfold Obligations.PseudoInstructionsExpand
  exact fun v => ⟨rfl, by decide, by decide⟩

end Sys2Proof.Machine
end

section
/-! SUPPORT. A binary32 word read off its number: the sign is bit 31, and the class and the magnitude are functions of
bits 30:0, in which the words of one sign stand in order, with the infinity at 0x7F800000 (spec 40 R80, R81). -/

namespace Sys2Proof.Machine

theorem expField_eq (w : Word) : expField w = w.toNat / 2 ^ 23 % 2 ^ 8 := by
  rw [expField, BitVec.extractLsb'_toNat, Nat.shiftRight_eq_div_pow]

theorem fracField_eq (w : Word) : fracField w = w.toNat % 2 ^ 23 := by
  rw [fracField, BitVec.extractLsb'_toNat, Nat.shiftRight_zero]

theorem signBit_iff (w : Word) : signBit w = true ↔ 2 ^ 31 ≤ w.toNat := by
  rw [signBit, ← BitVec.msb_eq_getLsbD_last, BitVec.msb_eq_true_iff_two_mul_ge]
  omega

theorem isNaN_iff (w : Word) : isNaN w = true ↔ 0x7F800000 < w.toNat % 2 ^ 31 := by
  simp only [isNaN, expField_eq, fracField_eq, Bool.and_eq_true, beq_iff_eq, bne_iff_ne]
  omega

theorem isInf_iff (w : Word) : isInf w = true ↔ w.toNat % 2 ^ 31 = 0x7F800000 := by
  simp only [isInf, expField_eq, fracField_eq, Bool.and_eq_true, beq_iff_eq]
  omega

theorem isZero_iff (w : Word) : isZero w = true ↔ w.toNat % 2 ^ 31 = 0 := by
  simp only [isZero, expField_eq, fracField_eq, Bool.and_eq_true, beq_iff_eq]
  omega

theorem isFinite_iff (w : Word) : isFinite w = true ↔ w.toNat % 2 ^ 31 < 0x7F800000 := by
  simp only [isFinite, expField_eq, bne_iff_ne]
  omega

theorem isNaN_of_isFinite {w : Word} (h : isFinite w = true) : isNaN w = false := by
  rw [isFinite_iff] at h
  rw [← Bool.not_eq_true, isNaN_iff]
  omega

theorem isInf_of_isFinite {w : Word} (h : isFinite w = true) : isInf w = false := by
  rw [isFinite_iff] at h
  rw [← Bool.not_eq_true, isInf_iff]
  omega

theorem isNaN_of_isInf {w : Word} (h : isInf w = true) : isNaN w = false := by
  rw [isInf_iff] at h
  rw [← Bool.not_eq_true, isNaN_iff]
  omega

theorem isFinite_of_isZero {w : Word} (h : isZero w = true) : isFinite w = true := by
  rw [isZero_iff] at h
  rw [isFinite_iff]
  omega

/-- A word that is neither a NaN nor an infinity is finite (spec 40 R81). -/
theorem isFinite_of_not_special {w : Word} (hnan : isNaN w = false) (hinf : isInf w = false) : isFinite w = true := by
  rw [← Bool.not_eq_true, isNaN_iff] at hnan
  rw [← Bool.not_eq_true, isInf_iff] at hinf
  rw [isFinite_iff]
  omega

theorem toNat_packSign (s : Bool) {m : Nat} (h : m < 2 ^ 31) :
    (packSign s m).toNat = (if s = true then 2 ^ 31 else 0) + m := by
  rw [packSign, BitVec.toNat_ofNat, Nat.mod_eq_of_lt]
  split <;> omega

theorem signBit_packSign (s : Bool) {m : Nat} (h : m < 2 ^ 31) : signBit (packSign s m) = s := by
  rw [Bool.eq_iff_iff, signBit_iff, toNat_packSign s h]
  split <;> simp_all

theorem packSign_mod (s : Bool) {m : Nat} (h : m < 2 ^ 31) : (packSign s m).toNat % 2 ^ 31 = m := by
  rw [toNat_packSign s h]
  split <;> omega

/-- A word is its sign and its bits 30:0. -/
theorem packSign_signBit (w : Word) : packSign (signBit w) (w.toNat % 2 ^ 31) = w := by
  have hw := w.isLt
  apply BitVec.eq_of_toNat_eq
  rw [toNat_packSign _ (Nat.mod_lt _ (by decide))]
  split
  next hneg =>
    rw [signBit_iff] at hneg
    omega
  next hpos =>
    rw [signBit_iff] at hpos
    omega

theorem packSign_of_isInf {w : Word} (h : isInf w = true) : packSign (signBit w) 0x7F800000 = w := by
  rw [← (isInf_iff w).1 h, packSign_signBit]

theorem packSign_of_isZero {w : Word} (h : isZero w = true) : packSign (signBit w) 0 = w := by
  rw [← (isZero_iff w).1 h, packSign_signBit]

/-- There is one infinity of each sign (spec 40 R81). -/
theorem eq_of_isInf {a b : Word} (ha : isInf a = true) (hb : isInf b = true) (hsign : signBit a = signBit b) :
    a = b := by
  rw [← packSign_of_isInf ha, hsign, packSign_of_isInf hb]

@[simp] theorem signBit_fneg (w : Word) : signBit (fneg w) = !signBit w := by
  simp [signBit, fneg, negZero]

theorem fneg_mod (w : Word) : (fneg w).toNat % 2 ^ 31 = w.toNat % 2 ^ 31 := by
  rw [fneg, BitVec.toNat_xor, Nat.xor_mod_two_pow]
  exact Nat.xor_zero _

@[simp] theorem isNaN_fneg (w : Word) : isNaN (fneg w) = isNaN w := by
  rw [Bool.eq_iff_iff, isNaN_iff, isNaN_iff, fneg_mod]

@[simp] theorem isInf_fneg (w : Word) : isInf (fneg w) = isInf w := by
  rw [Bool.eq_iff_iff, isInf_iff, isInf_iff, fneg_mod]

@[simp] theorem isZero_fneg (w : Word) : isZero (fneg w) = isZero w := by
  rw [Bool.eq_iff_iff, isZero_iff, isZero_iff, fneg_mod]

@[simp] theorem isFinite_fneg (w : Word) : isFinite (fneg w) = isFinite w := by
  rw [Bool.eq_iff_iff, isFinite_iff, isFinite_iff, fneg_mod]

end Sys2Proof.Machine
end

section
/-! SUPPORT. The values of the format with its exponent range unbounded above, and rounding to them (spec 40 R82):
`round32` rounds to the nearest of these values, and only then is the result cut at the infinity. -/

namespace Sys2Proof.Machine

open Sys2Proof.Claims

/-- The value, in units of 2^-149, at bits `b` (exponent and fraction) of the format unbounded above: `magnitude` for
exponents of any size (spec 40 R81, R82; `magnitude_eq`). -/
def gridValue (b : Nat) : Nat := if b / 2 ^ 23 = 0 then b else (2 ^ 23 + b % 2 ^ 23) * 2 ^ (b / 2 ^ 23 - 1)

/-- `roundMagnitude` before it is cut at the infinity. -/
def roundUnbounded (num den : Nat) : Nat :=
  quantumExp num den * 2 ^ 23 + roundHalfEven num (den * 2 ^ quantumExp num den)

/-- The distance, over the denominator `den`, between the value at `b` and `num / den`: `roundingError` with the
exponent range unbounded (`roundingError_eq`). -/
def gridError (num den b : Nat) : Nat := (((gridValue b * den : Nat) : Int) - num).natAbs

theorem roundMagnitude_eq (num den : Nat) : roundMagnitude num den = min (roundUnbounded num den) 0x7F800000 := rfl

theorem magnitude_eq (w : Word) : magnitude w = gridValue (w.toNat % 2 ^ 31) := by
  have hexp : w.toNat % 2 ^ 31 / 2 ^ 23 = expField w := by rw [expField_eq]; omega
  have hfrac : w.toNat % 2 ^ 31 % 2 ^ 23 = fracField w := by rw [fracField_eq]; omega
  rw [magnitude, gridValue, hexp, hfrac]
  split <;> omega

theorem roundingError_eq (num den : Nat) {b : Nat} (h : b < 2 ^ 31) :
    roundingError num den b = gridError num den b := by
  have hb : b % 2 ^ 32 % 2 ^ 31 = b := by omega
  rw [roundingError, gridError, magnitude_eq, BitVec.toNat_ofNat, hb, Nat.cast_mul]

/-- `k` steps of `2 ^ e` from zero are at `e * 2 ^ 23 + k`, up to the end of the binade, where the carry moves to the
next one. -/
theorem gridValue_pack {e k : Nat} (hk : k ≤ 2 ^ 24) (hnormal : e = 0 ∨ 2 ^ 23 ≤ k) :
    gridValue (e * 2 ^ 23 + k) = k * 2 ^ e := by
  unfold gridValue
  rcases Nat.lt_or_ge k (2 ^ 23) with hsub | hnorm
  · obtain rfl : e = 0 := by omega
    rw [Nat.zero_mul, Nat.zero_add, if_pos (Nat.div_eq_of_lt hsub), Nat.pow_zero, Nat.mul_one]
  rcases Nat.lt_or_ge k (2 ^ 24) with hlt | hge
  · have hexp : (e * 2 ^ 23 + k) / 2 ^ 23 = e + 1 := by omega
    have hfrac : 2 ^ 23 + (e * 2 ^ 23 + k) % 2 ^ 23 = k := by omega
    rw [hexp, hfrac, if_neg (by omega), Nat.add_sub_cancel]
  · have hexp : (e * 2 ^ 23 + k) / 2 ^ 23 = e + 2 := by omega
    have hfrac : (e * 2 ^ 23 + k) % 2 ^ 23 = 0 := by omega
    rw [hexp, hfrac, if_neg (by omega), show e + 2 - 1 = e + 1 from rfl, pow_succ]
    obtain rfl : k = 2 ^ 24 := by omega
    omega

/-- The value at `b` and the next one: `k` and `k + 1` steps of one spacing. -/
theorem exists_spacing (b : Nat) : ∃ e k, gridValue b = k * 2 ^ e ∧ gridValue (b + 1) = (k + 1) * 2 ^ e := by
  have hsplit : ∃ e k, b = e * 2 ^ 23 + k ∧ k < 2 ^ 24 ∧ (e = 0 ∨ 2 ^ 23 ≤ k) :=
    ⟨b / 2 ^ 23 - 1, b - (b / 2 ^ 23 - 1) * 2 ^ 23, by omega, by omega, by omega⟩
  obtain ⟨e, k, rfl, hk, hnormal⟩ := hsplit
  refine ⟨e, k, gridValue_pack (by omega) hnormal, ?_⟩
  rw [Nat.add_assoc]
  exact gridValue_pack (by omega) (by omega)

theorem gridValue_strictMono : StrictMono gridValue := by
  refine strictMono_nat_of_lt_succ fun b => ?_
  obtain ⟨e, k, hb, hnext⟩ := exists_spacing b
  rw [hb, hnext]
  exact Nat.mul_lt_mul_of_pos_right (Nat.lt_succ_self k) (Nat.two_pow_pos e)

/-- The values over a denominator stand in the order of their bits. -/
theorem le_iff_gridValue_mul_le {den : Nat} (hden : 0 < den) {m n : Nat} :
    m ≤ n ↔ gridValue m * den ≤ gridValue n * den := by
  rw [Nat.mul_le_mul_right_iff hden, gridValue_strictMono.le_iff_le]

theorem gridValue_mul_injective {den : Nat} (hden : 0 < den) {m n : Nat}
    (h : gridValue m * den = gridValue n * den) : m = n :=
  gridValue_strictMono.injective (Nat.eq_of_mul_eq_mul_right hden h)

theorem gridValue_eq_zero_iff (b : Nat) : gridValue b = 0 ↔ b = 0 := gridValue_strictMono.injective.eq_iff' rfl

/-- `roundHalfEven` is one of the two integers around the quotient, at most half a unit away, and even at half a
unit. -/
theorem roundHalfEven_spec (num : Nat) {den : Nat} (hden : 0 < den) :
    (roundHalfEven num den = num / den ∨ roundHalfEven num den = num / den + 1) ∧
    2 * (((roundHalfEven num den * den : Nat) : Int) - num).natAbs ≤ den ∧
    (2 * (((roundHalfEven num den * den : Nat) : Int) - num).natAbs = den → roundHalfEven num den % 2 = 0) := by
  have hdiv := Nat.div_add_mod' num den
  have hmod := Nat.mod_lt num hden
  simp only [roundHalfEven]
  split
  · rw [Nat.add_mul, Nat.one_mul]
    omega
  · omega

/-- The spacing around a quotient: the quotient lies in the binade whose steps are `2 ^ quantumExp`. -/
theorem quantumExp_spec (num den : Nat) :
    num / (den * 2 ^ quantumExp num den) < 2 ^ 24 ∧
    (quantumExp num den = 0 ∨ 2 ^ 23 ≤ num / (den * 2 ^ quantumExp num den)) := by
  rw [← Nat.div_div_eq_div_mul, quantumExp]
  generalize num / den = q
  rcases Nat.lt_or_ge q (2 ^ 24) with hsub | hnorm
  · have hlog : q.log2 - 23 = 0 := by
      rcases Nat.eq_zero_or_pos q with rfl | hpos
      · rfl
      · have := (Nat.log2_lt hpos.ne').2 hsub
        omega
    rw [hlog, Nat.pow_zero, Nat.div_one]
    exact ⟨hsub, .inl rfl⟩
  · have hq : q ≠ 0 := by omega
    have hlog : q.log2 = 23 + (q.log2 - 23) := by
      have := (Nat.le_log2 hq).2 hnorm
      omega
    have hlow := Nat.log2_self_le hq
    have hhigh := Nat.lt_log2_self (n := q)
    rw [hlog] at hlow hhigh
    rw [Nat.add_right_comm, Nat.pow_add] at hhigh
    rw [Nat.pow_add] at hlow
    exact ⟨Nat.div_lt_of_lt_mul (by rwa [Nat.mul_comm]), .inr ((Nat.le_div_iff_mul_le (Nat.two_pow_pos _)).2 hlow)⟩

/-- Between two neighbours `lo` and `lo + u`, a choice `v` at most half of `u` from `x` is nearest to `x` among all
numbers outside the gap, and another as near leaves `x` halfway. -/
theorem nearest_of_neighbours {lo u x v y : Nat} (hlo : lo ≤ x) (hhi : x < lo + u) (hv : v = lo ∨ v = lo + u)
    (hhalf : 2 * ((v : Int) - x).natAbs ≤ u) (hy : y ≤ lo ∨ lo + u ≤ y) :
    ((v : Int) - x).natAbs ≤ ((y : Int) - x).natAbs ∧
    (((y : Int) - x).natAbs = ((v : Int) - x).natAbs → y ≠ v → 2 * ((v : Int) - x).natAbs = u) := by
  omega

/-- The quotient lies between two neighbouring values of the format, one spacing `u` apart over `den`; rounding gives
one of them, at most half a spacing away, and even bits at half a spacing. -/
theorem roundUnbounded_bracket (num : Nat) {den : Nat} (hden : 0 < den) :
    ∃ b u, gridValue b * den ≤ num ∧ num < gridValue b * den + u ∧ gridValue (b + 1) * den = gridValue b * den + u ∧
      (roundUnbounded num den = b ∨ roundUnbounded num den = b + 1) ∧
      2 * gridError num den (roundUnbounded num den) ≤ u ∧
      (2 * gridError num den (roundUnbounded num den) = u → roundUnbounded num den % 2 = 0) := by
  obtain ⟨hlt, hnormal⟩ := quantumExp_spec num den
  have hunit : 0 < den * 2 ^ quantumExp num den := Nat.mul_pos hden (Nat.two_pow_pos _)
  obtain ⟨hchoice, hhalf, heven⟩ := roundHalfEven_spec num hunit
  have hbelow := Nat.div_mul_le_self num (den * 2 ^ quantumExp num den)
  have habove := Nat.lt_mul_of_div_lt (Nat.lt_succ_self (num / (den * 2 ^ quantumExp num den))) hunit
  have hvalue {k : Nat} (hk : k ≤ 2 ^ 24) (hn : quantumExp num den = 0 ∨ 2 ^ 23 ≤ k) :
      gridValue (quantumExp num den * 2 ^ 23 + k) * den = k * (den * 2 ^ quantumExp num den) := by
    rw [gridValue_pack hk hn, Nat.mul_assoc, Nat.mul_comm den]
  rw [roundUnbounded, gridError]
  generalize roundHalfEven num (den * 2 ^ quantumExp num den) = k at *
  generalize num / (den * 2 ^ quantumExp num den) = q at *
  generalize den * 2 ^ quantumExp num den = u at *
  generalize quantumExp num den = e at *
  have hlow := hvalue hlt.le hnormal
  have hhigh := hvalue (k := q + 1) hlt (by omega)
  rw [Nat.succ_mul] at habove
  rw [Nat.succ_mul, ← Nat.add_assoc] at hhigh
  rw [hvalue (k := k) (by omega) (by omega)]
  refine ⟨e * 2 ^ 23 + q, u, by rwa [hlow], by rwa [hlow], by rw [hhigh, hlow], by omega, hhalf, fun htie => ?_⟩
  have hk := heven htie
  omega

/-- Rounding with the exponent range unbounded: nearest among all values, and even if another is as near
(spec 40 R82). -/
theorem roundUnbounded_nearest (num : Nat) {den : Nat} (hden : 0 < den) (b : Nat) :
    gridError num den (roundUnbounded num den) ≤ gridError num den b ∧
    (gridError num den b = gridError num den (roundUnbounded num den) → b ≠ roundUnbounded num den →
      roundUnbounded num den % 2 = 0) := by
  obtain ⟨b₀, u, hbelow, habove, hnext, hchoice, hhalf, heven⟩ := roundUnbounded_bracket num hden
  have hside : gridValue (roundUnbounded num den) * den = gridValue b₀ * den ∨
      gridValue (roundUnbounded num den) * den = gridValue b₀ * den + u := by
    rw [← hnext]
    exact hchoice.imp (congrArg (gridValue · * den)) (congrArg (gridValue · * den))
  have houtside : gridValue b * den ≤ gridValue b₀ * den ∨ gridValue b₀ * den + u ≤ gridValue b * den := by
    rw [← hnext, ← le_iff_gridValue_mul_le hden, ← le_iff_gridValue_mul_le hden]
    exact (Nat.lt_or_ge b₀ b).symm
  obtain ⟨hnear, htie⟩ := nearest_of_neighbours hbelow habove hside hhalf houtside
  exact ⟨hnear, fun heq hne => heven (htie heq fun h => hne (gridValue_mul_injective hden h))⟩

/-- A value of the format rounds to itself (spec 40 R92). -/
theorem roundUnbounded_gridValue (b : Nat) {den : Nat} (hden : 0 < den) : roundUnbounded (gridValue b * den) den = b := by
  have hnear := (roundUnbounded_nearest (gridValue b * den) hden b).1
  have hexact : gridError (gridValue b * den) den b = 0 := by simp [gridError]
  rw [hexact, Nat.le_zero, gridError, Int.natAbs_eq_zero, Int.sub_eq_zero, Nat.cast_inj] at hnear
  exact gridValue_mul_injective hden hnear

/-- Of two neighbours `lo` and `lo + u`, the choice is the upper one from their midpoint on, if it is nearest and not
`lo` on a tie. -/
theorem upper_iff_midpoint_le {lo u x v : Nat} (hu : 0 < u) (hgap : v ≤ lo ∨ lo + u ≤ v)
    (hlow : ((v : Int) - x).natAbs ≤ ((lo : Int) - x).natAbs)
    (hhigh : ((v : Int) - x).natAbs ≤ (((lo + u : Nat) : Int) - x).natAbs)
    (htie : (((lo + u : Nat) : Int) - x).natAbs = ((v : Int) - x).natAbs → v ≠ lo) :
    lo + u ≤ v ↔ 2 * lo + u ≤ 2 * x := by
  constructor <;> intro h <;> omega

/-- At the bits of the infinity the unbounded format goes on with `2^128`, one spacing above the largest finite
magnitude (spec 40 R82). -/
theorem gridValue_infinity : gridValue 0x7F800000 = gridValue 0x7F7FFFFF + 2 ^ 253 := by decide

/-- The overflow threshold `(2^24 - 2^-1) * 2^104` is half a spacing above the largest finite magnitude (spec 40 R82). -/
theorem overflowThreshold_eq : (2 ^ 25 - 1) * 2 ^ 253 = 2 * gridValue 0x7F7FFFFF + 2 ^ 253 := by decide

/-- The overflow threshold is halfway between the largest finite magnitude and `2^128`; the tie goes to `2^128`,
because the bits of the first are odd (spec 40 R82). -/
theorem roundUnbounded_overflow_iff (num : Nat) {den : Nat} (hden : 0 < den) :
    0x7F800000 ≤ roundUnbounded num den ↔ (2 ^ 25 - 1) * 2 ^ 253 * den ≤ 2 * num := by
  have hlow := (roundUnbounded_nearest num hden 0x7F7FFFFF).1
  obtain ⟨hhigh, htie⟩ := roundUnbounded_nearest num hden 0x7F800000
  have hinf : gridValue 0x7F800000 * den = gridValue 0x7F7FFFFF * den + 2 ^ 253 * den := by
    rw [gridValue_infinity, Nat.add_mul]
  have hthreshold : (2 ^ 25 - 1) * 2 ^ 253 * den = 2 * (gridValue 0x7F7FFFFF * den) + 2 ^ 253 * den := by
    rw [overflowThreshold_eq, Nat.add_mul, Nat.mul_assoc]
  simp only [gridError, hinf] at hlow hhigh htie
  rw [le_iff_gridValue_mul_le hden, hinf, hthreshold]
  refine upper_iff_midpoint_le (Nat.mul_pos (Nat.two_pow_pos _) hden) ?_ hlow hhigh fun heq hv => ?_
  · rw [← hinf, ← le_iff_gridValue_mul_le hden, ← le_iff_gridValue_mul_le hden]
    omega
  · have hmax : roundUnbounded num den = 0x7F7FFFFF := gridValue_mul_injective hden hv
    have heven := htie heq (by omega)
    omega

/-- Settles O35: below the overflow threshold `roundMagnitude` is the unbounded rounding, which is nearest. -/
theorem roundsToNearestEven : Obligations.RoundsToNearestEven := by
  unfold Obligations.RoundsToNearestEven
  intro sign num den hden
  have hcut := roundMagnitude_eq num den
  have hover := roundUnbounded_overflow_iff num hden
  have hle : roundMagnitude num den ≤ 0x7F800000 := by omega
  have hbits : roundMagnitude num den < 2 ^ 31 := by omega
  refine ⟨signBit_packSign sign hbits, packSign_mod sign hbits, ?_, fun hfinite b hb => ?_, hle⟩
  · rw [← hover]
    omega
  · have hsame : roundMagnitude num den = roundUnbounded num den := by omega
    rw [roundingError_eq num den hbits, roundingError_eq num den (by omega), hsame]
    exact roundUnbounded_nearest num hden b

end Sys2Proof.Machine
end

section
/-! SUPPORT. The three operations on words of each class, and the laws of spec 40 R92: results that are values of the
format are exact, addition and multiplication commute, and zeros and 1.0 are neutral. -/

namespace Sys2Proof.Machine

theorem round32_gridValue (s : Bool) {b den : Nat} (hb : b < 0x7F800000) (hden : 0 < den) :
    round32 s (gridValue b * den) den = packSign s b := by
  rw [round32, roundMagnitude_eq, roundUnbounded_gridValue b hden, Nat.min_eq_left hb.le]

/-- The value of a finite word rounds to the word (spec 40 R82). -/
theorem round32_magnitude {w : Word} (h : isFinite w = true) {den : Nat} (hden : 0 < den) :
    round32 (signBit w) (magnitude w * den) den = w := by
  rw [magnitude_eq, round32_gridValue _ ((isFinite_iff w).1 h) hden, packSign_signBit]

theorem magnitude_eq_zero_iff (w : Word) : magnitude w = 0 ↔ isZero w = true := by
  rw [magnitude_eq, gridValue_eq_zero_iff, isZero_iff]

@[simp] theorem natAbs_scaledValue (w : Word) : (scaledValue w).natAbs = magnitude w := by
  unfold scaledValue
  split <;> simp

theorem scaledValue_eq_zero_iff (w : Word) : scaledValue w = 0 ↔ isZero w = true := by
  rw [← Int.natAbs_eq_zero, natAbs_scaledValue, magnitude_eq_zero_iff]

/-- The value of a nonzero word has the sign of its sign bit (spec 40 R81). -/
theorem scaledValue_neg_iff {w : Word} (h : isZero w = false) : scaledValue w < 0 ↔ signBit w = true := by
  have hpos : 0 < magnitude w := Nat.pos_of_ne_zero fun h0 => by simp [(magnitude_eq_zero_iff w).1 h0] at h
  unfold scaledValue
  split <;> simp_all

theorem scaledValue_pos_iff {w : Word} (h : isZero w = false) : 0 < scaledValue w ↔ signBit w = false := by
  have hne : scaledValue w ≠ 0 := by simp [scaledValue_eq_zero_iff, h]
  rw [← Bool.not_eq_true, ← scaledValue_neg_iff h]
  omega

/-- The sign of a product, `s` of spec 40 R85. -/
theorem scaledValue_mul_neg_iff {a b : Word} (ha : isZero a = false) (hb : isZero b = false) :
    scaledValue a * scaledValue b < 0 ↔ (signBit a != signBit b) = true := by
  rw [mul_neg_iff, scaledValue_pos_iff ha, scaledValue_pos_iff hb, scaledValue_neg_iff ha, scaledValue_neg_iff hb]
  cases signBit a <;> simp

theorem scaledValue_fneg (w : Word) : scaledValue (fneg w) = -scaledValue w := by
  have hmag : magnitude (fneg w) = magnitude w := by rw [magnitude_eq, magnitude_eq, fneg_mod]
  cases h : signBit w <;> simp [scaledValue, hmag, h]

/-- The sum of two finite words that are not both zeros, cases 5 and 6 of spec 40 R83. -/
theorem fadd32_of_finite {a b : Word} (ha : isFinite a = true) (hb : isFinite b = true)
    (hzeros : (isZero a && isZero b) = false) :
    fadd32 a b = if scaledValue a + scaledValue b = 0 then some posZero
      else some (round32 (decide (scaledValue a + scaledValue b < 0)) (scaledValue a + scaledValue b).natAbs 1) := by
  simp [fadd32, isNaN_of_isFinite ha, isNaN_of_isFinite hb, isInf_of_isFinite ha, isInf_of_isFinite hb, hzeros]

/-- The sum of two zeros, case 4 of spec 40 R83. -/
theorem fadd32_of_isZero {a b : Word} (ha : isZero a = true) (hb : isZero b = true) :
    fadd32 a b = some (if signBit a && signBit b then negZero else posZero) := by
  have hfa := isFinite_of_isZero ha
  have hfb := isFinite_of_isZero hb
  simp [fadd32, isNaN_of_isFinite hfa, isNaN_of_isFinite hfb, isInf_of_isFinite hfa, isInf_of_isFinite hfb, ha, hb]

/-- The product of two finite nonzero words, case 5 of spec 40 R85. -/
theorem fmul32_of_finite {a b : Word} (ha : isFinite a = true) (hb : isFinite b = true) (hza : isZero a = false)
    (hzb : isZero b = false) :
    fmul32 a b = some (round32 (signBit a != signBit b) (magnitude a * magnitude b) (2 ^ 149)) := by
  simp only [fmul32, isNaN_of_isFinite ha, isNaN_of_isFinite hb, isInf_of_isFinite ha, isInf_of_isFinite hb, hza, hzb,
    Bool.or_self, Bool.and_self, Bool.false_eq_true, if_false]

theorem fadd32_exact {a b c : Word} (ha : isFinite a = true) (hb : isFinite b = true) (hc : isFinite c = true)
    (hzc : isZero c = false) (hsum : scaledValue a + scaledValue b = scaledValue c) : fadd32 a b = some c := by
  have hne : scaledValue c ≠ 0 := by simp [scaledValue_eq_zero_iff, hzc]
  have hzeros : (isZero a && isZero b) = false := by
    by_contra h
    obtain ⟨hza, hzb⟩ : isZero a = true ∧ isZero b = true := by simpa using h
    rw [(scaledValue_eq_zero_iff a).2 hza, (scaledValue_eq_zero_iff b).2 hzb] at hsum
    exact hne hsum.symm
  have hsign : decide (scaledValue c < 0) = signBit c := by simp [scaledValue_neg_iff hzc]
  have hround := round32_magnitude hc Nat.one_pos
  rw [fadd32_of_finite ha hb hzeros, hsum, if_neg hne, hsign, natAbs_scaledValue, ← Nat.mul_one (magnitude c), hround]

theorem fmul32_exact {a b c : Word} (ha : isFinite a = true) (hb : isFinite b = true) (hc : isFinite c = true)
    (hzc : isZero c = false) (hprod : scaledValue a * scaledValue b = scaledValue c * 2 ^ 149) :
    fmul32 a b = some c := by
  have hne : scaledValue a * scaledValue b ≠ 0 := by
    rw [hprod]
    exact mul_ne_zero (by simp [scaledValue_eq_zero_iff, hzc]) (by decide)
  have hza : isZero a = false := by simpa [scaledValue_eq_zero_iff] using left_ne_zero_of_mul hne
  have hzb : isZero b = false := by simpa [scaledValue_eq_zero_iff] using right_ne_zero_of_mul hne
  have hmag : magnitude a * magnitude b = magnitude c * 2 ^ 149 := by
    simpa [Int.natAbs_mul] using congrArg Int.natAbs hprod
  have hsign : (signBit a != signBit b) = signBit c := by
    rw [Bool.eq_iff_iff, ← scaledValue_mul_neg_iff hza hzb, ← scaledValue_neg_iff hzc, hprod]
    omega
  rw [fmul32_of_finite ha hb hza hzb, hmag, hsign, round32_magnitude hc (Nat.two_pow_pos _)]

/-- Settles O36: the exact result is the value of `c`, which rounds to `c` (`round32_magnitude`). -/
theorem exactResultsAreExact : Obligations.ExactResultsAreExact := by
  unfold Obligations.ExactResultsAreExact
  exact ⟨fun _ _ _ => fadd32_exact, fun _ _ _ => fmul32_exact⟩

/-- Two infinities give a NaN or are one word; every other case of spec 40 R83 is symmetric. -/
theorem fadd32_comm (a b : Word) : fadd32 a b = fadd32 b a := by
  rcases hinf : isInf a && isInf b with _ | _
  · rw [Bool.and_eq_false_iff] at hinf
    rcases hinf with hinf | hinf <;> simp [fadd32, hinf, Bool.or_comm, Bool.and_comm, Int.add_comm]
  · obtain ⟨ha, hb⟩ : isInf a = true ∧ isInf b = true := by simpa using hinf
    by_cases hsign : signBit a = signBit b
    · rw [eq_of_isInf ha hb hsign]
    · have hopposite : signBit b ≠ signBit a := fun h => hsign h.symm
      simp [fadd32, ha, hb, hsign, hopposite]

/-- Every case of spec 40 R85 is symmetric. -/
theorem fmul32_comm (a b : Word) : fmul32 a b = fmul32 b a := by
  have hsign : (signBit a != signBit b) = (signBit b != signBit a) := bne_comm
  have hinvalid : (isInf a && isZero b || isZero a && isInf b) = (isInf b && isZero a || isZero b && isInf a) := by
    rw [Bool.or_comm, Bool.and_comm, Bool.and_comm (isInf a)]
  simp only [fmul32, hsign, hinvalid, Bool.or_comm (isNaN a), Bool.or_comm (isInf a), Bool.or_comm (isZero a),
    Nat.mul_comm (magnitude a)]

/-- An infinity and a zero keep their sign, and the product of any other word is its own value (spec 40 R92). -/
theorem fmul32_one {a : Word} (h : isNaN a = false) : fmul32 a floatOne = some a := by
  have hnan : isNaN floatOne = false := by decide
  have hinf : isInf floatOne = false := by decide
  have hzero : isZero floatOne = false := by decide
  have hsign : signBit floatOne = false := by decide
  have hvalue : scaledValue floatOne = 2 ^ 149 := by decide
  by_cases hinfA : isInf a = true
  · simp [fmul32, h, hnan, hzero, hinf, hsign, hinfA, packSign_of_isInf hinfA]
  by_cases hzeroA : isZero a = true
  · simp [fmul32, h, hnan, hzero, hinf, hsign, hinfA, hzeroA, packSign_of_isZero hzeroA]
  have hfinite : isFinite a = true := isFinite_of_not_special h (Bool.eq_false_of_not_eq_true hinfA)
  exact fmul32_exact hfinite (by decide) hfinite (Bool.eq_false_of_not_eq_true hzeroA) (by rw [hvalue])

/-- Settles O37: the cases of each operation are symmetric, and 1.0 times a finite word is exact. -/
theorem arithmeticCommutes : Obligations.ArithmeticCommutes := by
  unfold Obligations.ArithmeticCommutes
  exact ⟨fadd32_comm, fmul32_comm, fun _ => fmul32_one⟩

/-- Adding a zero of either sign to a nonzero finite word, case 6 of spec 40 R83. -/
theorem fadd32_zero {a z : Word} (ha : isFinite a = true) (hza : isZero a = false) (hz : isZero z = true) :
    fadd32 a z = some a := by
  refine fadd32_exact ha (isFinite_of_isZero hz) ha hza ?_
  rw [(scaledValue_eq_zero_iff z).2 hz, Int.add_zero]

theorem fsub32_self_of_finite {a : Word} (h : isFinite a = true) : fsub32 a a = some posZero := by
  have hsub : fsub32 a a = fadd32 a (fneg a) := by simp [fsub32, isNaN_of_isFinite h]
  rw [hsub]
  cases hz : isZero a with
  | true => rw [fadd32_of_isZero hz (by rwa [isZero_fneg]), signBit_fneg, Bool.and_not_self]; rfl
  | false =>
    have hsum : scaledValue a + scaledValue (fneg a) = 0 := by rw [scaledValue_fneg, Int.add_right_neg]
    rw [fadd32_of_finite h (by rwa [isFinite_fneg]) (by rw [hz, Bool.false_and]), if_pos hsum]

theorem fsub32_self_of_isInf {a : Word} (h : isInf a = true) : fsub32 a a = none := by
  simp [fsub32, fadd32, isNaN_of_isInf h, h]

/-- Settles O38: the value of `neg(a)` is the opposite of `a`'s, and a sum with a zero is exact. -/
theorem subtractingItselfIsZero : Obligations.SubtractingItselfIsZero := by
  unfold Obligations.SubtractingItselfIsZero
  refine ⟨fun _ => fsub32_self_of_finite, fun _ => fsub32_self_of_isInf, fun a z ha hza hz => ?_⟩
  have hright := fadd32_zero ha hza hz
  exact ⟨hright, (fadd32_comm z a).trans hright⟩

/-- Settles O39: seven closed vectors, evaluated. -/
theorem numericsVectorsHold : Obligations.NumericsVectorsHold := by
  unfold Obligations.NumericsVectorsHold
  exact ⟨by decide, by decide, by decide, by decide, by decide, by decide, by decide⟩

end Sys2Proof.Machine
end

section
/-! SUPPORT. MAC over products that are all zeros (spec 40 R86, 43 R128). -/

namespace Sys2Proof.Machine

/-- MAC is a counted loop over the taps (spec 43 R128). -/
theorem mac_acc (nch c : Nat) (e : Engine) : (mac nch c e).work.acc =
    Nat.fold Config.taps (fun i hi acc => tapSum e nch c ⟨i, hi⟩ (2 * i) acc) posZero := rfl

/-- The accumulator starts at `+0`, so adding a zero product of either sign leaves it there (spec 40 R86). -/
theorem tapSum_of_isZero {e : Engine} {nch c : Nat} {i : Fin Config.taps} {z : Word}
    (hfile40 : e.config.numerics = .file40) (hprod : fmul32 (rread e.inst nch c i.val) e.work.eff[i] = some z)
    (hz : isZero z = true) (k : Nat) : tapSum e nch c i k posZero = posZero := by
  have hpos : signBit posZero = false := rfl
  have hsum : fadd32 posZero z = some posZero := by
    rw [fadd32_of_isZero rfl hz, hpos]
    rfl
  simp only [tapSum, numerics_file40 _ hfile40, hprod, Engine.resolve, Option.getD_some, hsum]

/-- Settles O43: every tap leaves the accumulator at `+0`. -/
theorem macOfZerosIsPositiveZero : Obligations.MacOfZerosIsPositiveZero := by
  unfold Obligations.MacOfZerosIsPositiveZero
  intro e nch c hfile40 hzeros
  rw [mac_acc]
  refine fold_keeps (· = posZero) Config.taps _ posZero rfl fun i hi acc hacc => ?_
  obtain ⟨z, hprod, hz⟩ := hzeros ⟨i, hi⟩
  rw [hacc]
  exact tapSum_of_isZero hfile40 hprod hz _

end Sys2Proof.Machine
end

section
/-! SUPPORT. What INTERP writes, for every `NUMERICS` (spec 41 R102, R107): each word is the result of its three
operations, and a NaN result is a NaN word (40 R88). -/

namespace Sys2Proof.Machine

@[simp] theorem Engine.resolve_some (e : Engine) (k : Nat) (w : Word) : e.resolve k (some w) = w := rfl

/-- Bits 30:22 are set. -/
@[simp] theorem isNaN_quietNaN (w : Word) : isNaN (quietNaN w) = true := by
  have hexp : expField (quietNaN w) = 255 := by
    rw [expField, quietNaN, BitVec.extractLsb'_or]
    exact congrArg BitVec.toNat (BitVec.or_allOnes (x := w.extractLsb' 23 8))
  have hquiet : (quietNaN w).getLsbD 22 = true := by simp [quietNaN]
  have hfrac : fracField (quietNaN w) ≠ 0 := by
    intro h
    have hzero : (quietNaN w).extractLsb' 0 23 = 0#23 := BitVec.eq_of_toNat_eq h
    have hclear : (quietNaN w).getLsbD 22 = false := by simpa using congrArg (·.getLsbD 22) hzero
    exact Bool.false_ne_true (hclear.symm.trans hquiet)
  simp [isNaN, hexp, hfrac]

/-- Where a rule says "a NaN", the word is one (spec 40 R88). -/
theorem isNaN_resolve_none {e : Engine} (hwf : e.config.wf = true) (k : Nat) : isNaN (e.resolve k none) = true := by
  obtain ⟨-, -, -, -, -, hnan⟩ := (config_wf_iff _).1 hwf
  rw [Engine.resolve, Option.getD_none]
  cases hresult : e.config.nanResult with
  | anyQuiet => exact isNaN_quietNaN _
  | fixed w => rwa [hresult] at hnan

theorem interp_omx (e : Engine) :
    (interp e).work.omx = e.resolve 0 ((numerics e.config).fsub32 floatOne e.inst.speedPercent) := rfl

theorem interp_eff (e : Engine) (i : Fin Config.taps) :
    (interp e).work.eff[i] = e.blend (1 + 3 * i.val) e.config.coefLow[i] e.config.coefHigh[i] e.inst.speedPercent
      (interp e).work.omx := by
  simp [interp]

/-- Settles O42: each result is the word its operation returns. -/
theorem interpWritesTheBlend : Obligations.InterpWritesTheBlend := by
  unfold Obligations.InterpWritesTheBlend
  intro e omx hsub
  have homx : (interp e).work.omx = omx := by rw [interp_omx, floatOne, hsub, Engine.resolve_some]
  refine ⟨rfl, homx, fun i l h v hlow hhigh hsum => ?_, rfl, rfl, rfl, rfl, rfl⟩
  rw [interp_eff, Engine.blend, homx, hlow, hhigh, Engine.resolve_some, Engine.resolve_some, hsum, Engine.resolve_some]

end Sys2Proof.Machine
end

section
/-! SUPPORT. INTERP under file 40 at its end points and at a speed that is no finite number (spec 41 R104, R106): the
operations on zeros, infinities and NaNs (40 R83 to R85). -/

namespace Sys2Proof.Machine

theorem fsub32_eq_fadd32 {a b : Word} (ha : isNaN a = false) (hb : isNaN b = false) :
    fsub32 a b = fadd32 a (fneg b) := by
  simp [fsub32, ha, hb]

@[simp] theorem isZero_packSign (s : Bool) : isZero (packSign s 0) = true :=
  (isZero_iff _).2 (packSign_mod s (by decide))

@[simp] theorem isInf_packSign (s : Bool) : isInf (packSign s 0x7F800000) = true :=
  (isInf_iff _).2 (packSign_mod s (by decide))

theorem isZero_of_isInf {w : Word} (h : isInf w = true) : isZero w = false := by
  rw [isInf_iff] at h
  rw [← Bool.not_eq_true, isZero_iff]
  omega

/-- A finite word times a zero, case 4 of spec 40 R85. -/
theorem fmul32_of_isZero {a z : Word} (ha : isFinite a = true) (hz : isZero z = true) :
    fmul32 a z = some (packSign (signBit a != signBit z) 0) := by
  have hfz := isFinite_of_isZero hz
  simp [fmul32, isNaN_of_isFinite ha, isNaN_of_isFinite hfz, isInf_of_isFinite ha, isInf_of_isFinite hfz, hz]

/-- A finite word times an infinity, cases 2 and 3 of spec 40 R85. -/
theorem fmul32_of_isInf {a b : Word} (ha : isFinite a = true) (hb : isInf b = true) :
    fmul32 a b = if isZero a = true then none else some (packSign (signBit a != signBit b) 0x7F800000) := by
  simp [fmul32, isNaN_of_isFinite ha, isInf_of_isFinite ha, isNaN_of_isInf hb, isZero_of_isInf hb, hb]

theorem fmul32_of_isNaN {a b : Word} (hb : isNaN b = true) : fmul32 a b = none := by
  simp [fmul32, hb]

theorem fadd32_of_isNaN {a b : Word} (hnan : isNaN a = true ∨ isNaN b = true) : fadd32 a b = none := by
  simp [fadd32, hnan]

/-- A finite word minus an infinity is the opposite infinity, case 3 of spec 40 R83. -/
theorem fsub32_of_isInf {a b : Word} (ha : isFinite a = true) (hb : isInf b = true) : fsub32 a b = some (fneg b) := by
  have hnan := isNaN_of_isInf hb
  rw [fsub32_eq_fadd32 (isNaN_of_isFinite ha) hnan]
  simp [fadd32, isNaN_of_isFinite ha, isInf_of_isFinite ha, hnan, hb]

/-- The sum of two infinities, cases 1 and 2 of spec 40 R83. -/
theorem fadd32_infinities (s t : Bool) :
    fadd32 (packSign s 0x7F800000) (packSign t 0x7F800000) = if s = t then some (packSign s 0x7F800000) else none := by
  revert s t
  decide

/-- Times two infinities of opposite signs, two words of one sign give products of opposite signs, and the reverse. -/
theorem bne_not_eq_bne_iff (a b x : Bool) : ((a != !x) = (b != x)) ↔ ¬a = b := by
  revert a b x
  decide

/-- There is one zero of each sign (spec 40 R81). -/
theorem signBit_iff_negZero {w : Word} (h : isZero w = true) : signBit w = true ↔ w = negZero := by
  refine ⟨fun hsign => ?_, fun hw => hw ▸ rfl⟩
  rw [← packSign_of_isZero h, hsign]
  rfl

/-- A sum with a zero is the other word, or is a zero with it (spec 40 R83). -/
theorem resolve_fadd32_zero (e : Engine) (k : Nat) {a z : Word} (ha : isFinite a = true) (hz : isZero z = true) :
    (isZero a = false → e.resolve k (fadd32 a z) = a) ∧
    (isZero a = true → isZero (e.resolve k (fadd32 a z)) = true) := by
  refine ⟨fun hza => ?_, fun hza => ?_⟩
  · rw [fadd32_zero ha hza hz, Engine.resolve_some]
  · rw [fadd32_of_isZero hza hz, Engine.resolve_some]
    split <;> rfl

section File40

variable {e : Engine} (hfile40 : e.config.numerics = .file40)
include hfile40

theorem interp_omx_file40 : (interp e).work.omx = e.resolve 0 (fsub32 floatOne e.inst.speedPercent) := by
  rw [interp_omx, numerics_file40 _ hfile40]

theorem interp_eff_file40 (i : Fin Config.taps) : (interp e).work.eff[i] =
    e.resolve (1 + 3 * i.val + 2) (fadd32
      (e.resolve (1 + 3 * i.val) (fmul32 e.config.coefLow[i] (interp e).work.omx))
      (e.resolve (1 + 3 * i.val + 1) (fmul32 e.config.coefHigh[i] e.inst.speedPercent))) := by
  rw [interp_eff, Engine.blend, numerics_file40 _ hfile40]

/-- At a zero of either sign, `omx` is 1.0 (spec 41 R104). -/
theorem interp_omx_of_isZero (hx : isZero e.inst.speedPercent = true) : (interp e).work.omx = floatOne := by
  have hnan := isNaN_of_isFinite (isFinite_of_isZero hx)
  have hsub : fsub32 floatOne e.inst.speedPercent = some floatOne := by
    rw [fsub32_eq_fadd32 (by decide) hnan, fadd32_zero (by decide) (by decide) (by rwa [isZero_fneg])]
  rw [interp_omx_file40 hfile40, hsub, Engine.resolve_some]

/-- At a zero of either sign, a zero is added to the low coefficient (spec 41 R104). -/
theorem interp_eff_of_isZero (hwf : e.config.wf = true) (hx : isZero e.inst.speedPercent = true)
    (i : Fin Config.taps) : (interp e).work.eff[i] = e.resolve (1 + 3 * i.val + 2) (fadd32 e.config.coefLow[i]
      (packSign (signBit e.config.coefHigh[i] != signBit e.inst.speedPercent) 0)) := by
  obtain ⟨hlow, hhigh, -⟩ := (config_wf_iff _).1 hwf
  rw [interp_eff_file40 hfile40, interp_omx_of_isZero hfile40 hx, fmul32_one (isNaN_of_isFinite (hlow i)),
    fmul32_of_isZero (hhigh i) hx, Engine.resolve_some, Engine.resolve_some]

/-- At a zero of either sign, the filter is the low bank up to the sign of zeros (spec 41 R104). -/
theorem interp_eff_low_of_isZero (hwf : e.config.wf = true) (hx : isZero e.inst.speedPercent = true)
    (i : Fin Config.taps) :
    (isZero e.config.coefLow[i] = false → (interp e).work.eff[i] = e.config.coefLow[i]) ∧
    (isZero e.config.coefLow[i] = true → isZero (interp e).work.eff[i] = true) := by
  obtain ⟨hlow, -⟩ := (config_wf_iff _).1 hwf
  rw [interp_eff_of_isZero hfile40 hwf hx]
  exact resolve_fadd32_zero e _ (hlow i) (isZero_packSign _)

/-- At `+0`, a zero low coefficient gives the sum of two zeros, case 4 of spec 40 R83 (41 R104). -/
theorem interp_eff_of_zeros (hwf : e.config.wf = true) (hx : e.inst.speedPercent = posZero) {i : Fin Config.taps}
    (hz : isZero e.config.coefLow[i] = true) : (interp e).work.eff[i] =
      if e.config.coefLow[i] = negZero ∧ signBit e.config.coefHigh[i] = true then negZero else posZero := by
  have hsign : (signBit e.config.coefHigh[i] != signBit e.inst.speedPercent) = signBit e.config.coefHigh[i] := by
    rw [hx]
    exact Bool.bne_false _
  rw [interp_eff_of_isZero hfile40 hwf (by rw [hx]; rfl), fadd32_of_isZero hz (isZero_packSign _),
    signBit_packSign _ (by decide), hsign, Engine.resolve_some]
  simp only [Bool.and_eq_true, signBit_iff_negZero hz]

/-- At 1.0, `omx` is `+0` (spec 41 R104). -/
theorem interp_omx_of_one (hx : e.inst.speedPercent = floatOne) : (interp e).work.omx = posZero := by
  rw [interp_omx_file40 hfile40, hx, fsub32_self_of_finite (by decide), Engine.resolve_some]

/-- At 1.0, a zero is added to the high coefficient (spec 41 R104). -/
theorem interp_eff_of_one (hwf : e.config.wf = true) (hx : e.inst.speedPercent = floatOne) (i : Fin Config.taps) :
    (isZero e.config.coefHigh[i] = false → (interp e).work.eff[i] = e.config.coefHigh[i]) ∧
    (isZero e.config.coefHigh[i] = true → isZero (interp e).work.eff[i] = true) := by
  obtain ⟨hlow, hhigh, -⟩ := (config_wf_iff _).1 hwf
  rw [interp_eff_file40 hfile40, interp_omx_of_one hfile40 hx, hx, fmul32_one (isNaN_of_isFinite (hhigh i)),
    fmul32_of_isZero (hlow i) (by decide), Engine.resolve_some, Engine.resolve_some, fadd32_comm]
  exact resolve_fadd32_zero e _ (hhigh i) (isZero_packSign _)

theorem interp_omx_of_isNaN (hwf : e.config.wf = true) (hx : isNaN e.inst.speedPercent = true) :
    isNaN (interp e).work.omx = true := by
  have hsub : fsub32 floatOne e.inst.speedPercent = none := by simp [fsub32, hx]
  rw [interp_omx_file40 hfile40, hsub]
  exact isNaN_resolve_none hwf 0

/-- At an infinity, `omx` is the opposite one (spec 41 R106). -/
theorem interp_omx_of_isInf (hx : isInf e.inst.speedPercent = true) :
    (interp e).work.omx = fneg e.inst.speedPercent := by
  rw [interp_omx_file40 hfile40, fsub32_of_isInf (by decide) hx, Engine.resolve_some]

/-- A NaN product makes the word of the filter a NaN (spec 40 R83). -/
theorem isNaN_eff_of_product (hwf : e.config.wf = true) {i : Fin Config.taps}
    (hprod : fmul32 e.config.coefLow[i] (interp e).work.omx = none ∨
      fmul32 e.config.coefHigh[i] e.inst.speedPercent = none) : isNaN (interp e).work.eff[i] = true := by
  have hnan := isNaN_resolve_none hwf
  rw [interp_eff_file40 hfile40]
  rcases hprod with hprod | hprod
  · rw [hprod, fadd32_of_isNaN (.inl (hnan _))]
    exact hnan _
  · rw [hprod, fadd32_of_isNaN (.inr (hnan _))]
    exact hnan _

/-- At an infinity, a zero coefficient gives a NaN product (spec 41 R106). -/
theorem isNaN_eff_of_isInf_of_isZero (hwf : e.config.wf = true) (hx : isInf e.inst.speedPercent = true)
    {i : Fin Config.taps} (hz : isZero e.config.coefLow[i] = true ∨ isZero e.config.coefHigh[i] = true) :
    isNaN (interp e).work.eff[i] = true := by
  obtain ⟨hlow, hhigh, -⟩ := (config_wf_iff _).1 hwf
  refine isNaN_eff_of_product hfile40 hwf (hz.imp (fun hz => ?_) fun hz => ?_)
  · rw [interp_omx_of_isInf hfile40 hx, fmul32_of_isInf (hlow i) (by rwa [isInf_fneg]), if_pos hz]
  · rw [fmul32_of_isInf (hhigh i) hx, if_pos hz]

/-- At an infinity, nonzero coefficients give two infinite products, which cancel exactly where the coefficients have
one sign (spec 41 R106). -/
theorem interp_eff_of_isInf (hwf : e.config.wf = true) (hx : isInf e.inst.speedPercent = true) {i : Fin Config.taps}
    (hzlow : isZero e.config.coefLow[i] = false) (hzhigh : isZero e.config.coefHigh[i] = false) :
    (interp e).work.eff[i] = e.resolve (1 + 3 * i.val + 2)
      (if signBit e.config.coefLow[i] = signBit e.config.coefHigh[i] then none
        else some (packSign (signBit e.config.coefLow[i] != !signBit e.inst.speedPercent) 0x7F800000)) := by
  obtain ⟨hlow, hhigh, -⟩ := (config_wf_iff _).1 hwf
  rw [interp_eff_file40 hfile40, interp_omx_of_isInf hfile40 hx, fmul32_of_isInf (hlow i) (by rwa [isInf_fneg]),
    fmul32_of_isInf (hhigh i) hx, hzlow, hzhigh, signBit_fneg]
  simp only [Bool.false_eq_true, if_false, Engine.resolve_some, fadd32_infinities, bne_not_eq_bne_iff, ite_not]

end File40

/-- Settles O40: one product is the coefficient and the other a zero (`interp_eff_low_of_isZero`,
`interp_eff_of_one`); at `+0` the sign of a sum of zeros is known (`interp_eff_of_zeros`). -/
theorem interpEndPoints : Obligations.InterpEndPoints := by
  unfold Obligations.InterpEndPoints
  intro e i hwf hfile40 low high eff
  obtain ⟨hlow, hhigh, -⟩ := (config_wf_iff _).1 hwf
  refine ⟨fun hx => ?plusZero, fun hx => ?minusZero, fun hx => ?one⟩
  case plusZero =>
    have hzx : isZero e.inst.speedPercent = true := by rw [hx]; rfl
    exact ⟨interp_omx_of_isZero hfile40 hzx, fmul32_one (isNaN_of_isFinite (hlow i)),
      ⟨_, fmul32_of_isZero (hhigh i) rfl, isZero_packSign _⟩, (interp_eff_low_of_isZero hfile40 hwf hzx i).1,
      interp_eff_of_zeros hfile40 hwf hx⟩
  case minusZero =>
    have hzx : isZero e.inst.speedPercent = true := by rw [hx]; rfl
    exact ⟨interp_omx_of_isZero hfile40 hzx, interp_eff_low_of_isZero hfile40 hwf hzx i⟩
  case one => exact ⟨interp_omx_of_one hfile40 hx, interp_eff_of_one hfile40 hwf hx i⟩

/-- Settles O41: a NaN product makes the sum a NaN, and the two infinite products cancel to a NaN where the
coefficients have one sign (`interp_eff_of_isInf`). -/
theorem interpBeyondTheRange : Obligations.InterpBeyondTheRange := by
  unfold Obligations.InterpBeyondTheRange
  intro e i hwf hfile40 low high eff
  refine ⟨fun hx => ?nan, fun hx => ?plus, fun hx => ?minus, fun hx => ?either⟩
  case nan =>
    exact ⟨interp_omx_of_isNaN hfile40 hwf hx, isNaN_eff_of_product hfile40 hwf (.inr (fmul32_of_isNaN hx))⟩
  case plus =>
    rw [interp_omx_of_isInf hfile40 (by rw [hx]; rfl), hx]
    rfl
  case minus =>
    rw [interp_omx_of_isInf hfile40 (by rw [hx]; rfl), hx]
    rfl
  case either =>
    have hinf : isInf e.inst.speedPercent = true := by rcases hx with hx | hx <;> rw [hx] <;> rfl
    refine ⟨fun h => ?_, fun hzlow hzhigh hsign => ?_⟩
    · by_cases hz : isZero low = true ∨ isZero high = true
      · exact isNaN_eff_of_isInf_of_isZero hfile40 hwf hinf hz
      · have hsign : signBit low = signBit high := (or_assoc.2 h).resolve_left hz
        obtain ⟨hzlow, hzhigh⟩ : isZero low = false ∧ isZero high = false := by simpa using hz
        have heff := interp_eff_of_isInf hfile40 hwf hinf hzlow hzhigh
        rw [if_pos hsign] at heff
        exact (congrArg isNaN heff).trans (isNaN_resolve_none hwf _)
    · have heff := interp_eff_of_isInf hfile40 hwf hinf hzlow hzhigh
      rw [if_neg hsign, Engine.resolve_some] at heff
      exact (congrArg isInf heff).trans (isInf_packSign _)

end Sys2Proof.Machine
end

section
/-! SUPPORT. The indices of the ring (spec 42 R111 to R119): the floor modulo on nearby integers, and the samples of
successive frames as successive integers. -/

namespace Sys2Proof.Machine

/-- The floor modulo takes off a multiple of the modulus (spec 42 R111). -/
theorem dvd_sub_floorMod (a : Int) {n : Nat} (h : 0 < n) : (n : Int) ∣ a - floorMod a n := by
  rw [floorMod_eq, if_neg h.ne']
  exact Int.dvd_self_sub_emod

theorem floorMod_add_self (a : Int) (n : Nat) : floorMod (a + n) n = floorMod a n := by
  rw [floorMod, floorMod, Int.add_fmod_right]

/-- Two integers less than the modulus apart share a slot only when they are equal. -/
theorem eq_of_floorMod_eq {a b : Int} {n : Nat} (hnear : |a - b| < n) (h : floorMod a n = floorMod b n) : a = b := by
  have hn : 0 < n := by have := abs_nonneg (a - b); omega
  have hdvd : (n : Int) ∣ a - b := by simpa [h] using Int.dvd_sub (dvd_sub_floorMod a hn) (dvd_sub_floorMod b hn)
  exact sub_eq_zero.1 (Int.eq_zero_of_abs_lt_dvd hdvd hnear)

/-- The place of a sample in its stream gives its channel, the remainder by the stride, and its frame (spec 20 R44). -/
theorem frame_channel_of_place {a b : Int} {c c' nch : Nat} (hc : c < nch) (hc' : c' < nch)
    (h : a * nch + c = b * nch + c') : a = b ∧ c = c' := by
  have hdvd : (nch : Int) ∣ (c' : Int) - c := ⟨a - b, by linarith⟩
  have hchannel : c = c' := by
    have := Int.eq_zero_of_abs_lt_dvd hdvd (Int.abs_sub_lt_of_lt_lt hc hc')
    omega
  subst hchannel
  exact ⟨mul_right_cancel₀ (by omega : (nch : Int) ≠ 0) (add_right_cancel h), rfl⟩

/-- Taps 0 to 20 of a channel are at most 20 frames of `nch` places back (spec 42 R119). -/
theorem tap_place_bounds {nch t : Nat} (ht : t ≤ 20) : (0 : Int) ≤ t * nch ∧ (t : Int) * nch ≤ 20 * nch := by
  have := Nat.mul_le_mul_right nch ht
  exact ⟨by positivity, by exact_mod_cast this⟩

theorem capacity_toNat_pos {d : DspState} (h : d.capacity ≠ 0#32) : 0 < d.capacity.toNat := by bv_omega

/-- A ring that holds all the taps gives each a slot of its own (spec 42 R119). -/
theorem ringIndex_injective {d : DspState} {nch c c' t t' : Nat} (hfits : 21 * nch ≤ d.capacity.toNat) (ht : t ≤ 20)
    (ht' : t' ≤ 20) (hc : c < nch) (hc' : c' < nch) (h : ringIndex d nch c t = ringIndex d nch c' t') :
    t = t' ∧ c = c' := by
  obtain ⟨hlow, hhigh⟩ := tap_place_bounds (nch := nch) ht
  obtain ⟨hlow', hhigh'⟩ := tap_place_bounds (nch := nch) ht'
  have hplace := eq_of_floorMod_eq (by rw [abs_lt, sub_mul, sub_mul]; omega) h
  obtain ⟨hframe, hchannel⟩ := frame_channel_of_place hc hc' hplace
  exact ⟨by omega, hchannel⟩

/-- The place one `capacity` back, `q` frames and `r` channels, has the slot of the newest one (spec 42 R119). -/
theorem ringIndex_wraps {d : DspState} {nch q r : Nat} (h : d.capacity.toNat = q * nch + r) :
    ringIndex d nch r 0 = ringIndex d nch 0 q := by
  rw [ringIndex, ringIndex, ← floorMod_add_self (((d.sampleCount : Int) - q) * nch + _)]
  congr 1
  rw [h]
  push_cast
  ring

/-- Settles O46: the laws of the floor modulo at the argument of RREAD, whose tap 0 is that of RWRITE. -/
theorem ringIndicesAreInRange : Obligations.RingIndicesAreInRange := by
  unfold Obligations.RingIndicesAreInRange
  intro d nch c t hcapacity
  have hpos := capacity_toNat_pos hcapacity
  exact ⟨floorMod_lt _ _ hpos, dvd_sub_floorMod _ hpos, ringIndex_zero d nch c⟩

/-- Settles O47: `ringIndex_injective`; in a smaller ring the place one `capacity` back is that of a tap, and shares
its slot with tap 0 (`ringIndex_wraps`). -/
theorem tapIndicesDistinctExactly : Obligations.TapIndicesDistinctExactly := by
  unfold Obligations.TapIndicesDistinctExactly
  intro d nch hnch hcapacity
  refine ⟨fun hdistinct => ?_, fun hfits t ht t' ht' c hc c' hc' => ringIndex_injective hfits ht ht' hc hc'⟩
  by_contra hsmall
  have hplace := Nat.div_add_mod' d.capacity.toNat nch
  have htap : d.capacity.toNat / nch ≤ 20 := Nat.le_of_lt_succ (Nat.div_lt_of_lt_mul (by omega))
  obtain ⟨hquot, hrem⟩ := hdistinct 0 (by omega) _ htap _ (Nat.mod_lt _ hnch) 0 hnch (ringIndex_wraps hplace.symm)
  rw [← hquot, hrem, Nat.zero_mul] at hplace
  exact (capacity_toNat_pos hcapacity).ne hplace

end Sys2Proof.Machine
end

section
/-! SUPPORT. What the ring holds during a stream at one stride (spec 42 R118): the samples in the order of their
RWRITEs are successive places, and each RWRITE keeps the last `capacity` of them. -/

namespace Sys2Proof.Machine

open Sys2Proof.Claims

/-- A counted loop whose turn `i` leads from `P i` to `P (i + 1)`. -/
theorem fold_advances {α : Type} (P : Nat → α → Prop) (n : Nat) (f : (i : Nat) → i < n → α → α) (a : α)
    (h0 : P 0 a) (hs : ∀ i h a, P i a → P (i + 1) (f i h a)) : P n (Nat.fold n f a) := by
  induction n with
  | zero => simpa using h0
  | succ n ih => rw [Nat.fold_succ]; exact hs _ _ _ (ih _ fun i h a => hs i (by omega) a)

/-- The input sample at a place of the stream, all channels in the order of IN (spec 20 R44): the stream taken as one
channel. -/
def placeWord (bs : List Block) (p : Int) : Word := streamWord 1 bs 0 p

theorem streamWord_eq_placeWord {nch c : Nat} (bs : List Block) (m : Int) (hc : c < nch) :
    streamWord nch bs c m = placeWord bs (m * nch + c) := by
  by_cases hm : m < 0
  · have hp : m * nch + c < 0 := by nlinarith
    simp only [placeWord, streamWord, if_pos hm, if_pos hp]
  · obtain ⟨k, rfl⟩ := Int.eq_ofNat_of_zero_le (not_lt.1 hm)
    have hp : ¬(k : Int) * nch + c < 0 := not_lt.2 (by positivity)
    have hplace : ((k : Int) * nch + c).toNat = k * nch + c := by
      exact_mod_cast Int.toNat_natCast (k * nch + c)
    simp only [placeWord, streamWord, if_neg hm, if_neg hp, hplace, Int.toNat_natCast, Nat.mul_one, Nat.add_zero]

theorem length_inWords {nch : Nat} {bs : List Block} (h : BlocksSupplied nch bs) :
    (bs.flatMap Block.inWords).length = totalFrames bs * nch := by
  induction bs with
  | nil => simp [totalFrames]
  | cons b bs ih =>
    obtain ⟨hb, hbs⟩ := List.forall_mem_cons.1 h
    rw [List.flatMap_cons, List.length_append, hb, ih hbs]
    simp [totalFrames, Nat.add_mul]

/-- Block `b`, whose first frame is frame `m` of the stream `bs`, has its samples of the stream in IN. -/
def InWordsAt (nch : Nat) (bs : List Block) (m : Nat) (b : Block) : Prop :=
  ∀ s < b.frames, ∀ c < nch, b.inWords[sampleIndex nch s c]? = some (placeWord bs ((m + s : Nat) * nch + c))

theorem inWordsAt_append {nch : Nat} {pre rest : List Block} {b : Block} (h : BlocksSupplied nch (pre ++ b :: rest)) :
    InWordsAt nch (pre ++ b :: rest) (totalFrames pre) b := by
  intro s hs c hc
  obtain ⟨hpre, hb, -⟩ : BlocksSupplied nch pre ∧ b.inWords.length = b.frames * nch ∧ BlocksSupplied nch rest := by
    simpa [BlocksSupplied, or_imp, forall_and] using h
  have hlt : s * nch + c < b.inWords.length := by
    have := Nat.mul_le_mul_right nch (Nat.succ_le_of_lt hs)
    rw [Nat.succ_mul] at this
    omega
  have hnonneg : ¬((totalFrames pre + s : Nat) : Int) < 0 := by omega
  have hplace : (totalFrames pre + s) * nch + c = (pre.flatMap Block.inWords).length + (s * nch + c) := by
    rw [length_inWords hpre, Nat.add_mul, Nat.add_assoc]
  rw [← streamWord_eq_placeWord _ _ hc, streamWord, if_neg hnonneg, Int.toNat_natCast, hplace, List.flatMap_append,
    List.flatMap_cons, List.getD_append_right _ _ _ _ (by omega), Nat.add_sub_cancel_left,
    List.getD_append _ _ _ _ hlt, List.getD_eq_getElem _ _ hlt]
  exact List.getElem?_eq_getElem hlt

/-- Before the RWRITE of channel `c` in frame `m` of the stream since CREATE with block size `size`, the ring holds the
last `capacity` samples, those before the stream being `F(+0.0)`. -/
structure RingHolds (size nch : Nat) (bs : List Block) (m c : Nat) (d : DspState) : Prop where
  pointer : d.sampleCount = size + m
  capacity : d.capacity.toNat = 8 * size
  ring_wf : Memory.wf d.ring = true
  recent : ∀ p : Int, p < m * nch + c → m * nch + c ≤ p + 8 * size →
    Memory.read d.ring (floorMod (size * nch + p) (8 * size)) = placeWord bs p

section Stream

variable {size nch m c : Nat} {bs : List Block} {d : DspState}

theorem ringHolds_of_freshRing (bs : List Block) (h : FreshRing d size) : RingHolds size nch bs 0 0 d := by
  obtain ⟨hpointer, hcapacity, hwf, hzero⟩ := h
  refine ⟨hpointer, hcapacity, hwf, fun p hp _ => ?_⟩
  have hneg : p < 0 := by simpa using hp
  rw [hzero, placeWord, streamWord, if_pos hneg]

/-- RREAD and RWRITE address the ring by places of the stream (spec 42 R113, R114). -/
theorem RingHolds.ringIndex_eq (h : RingHolds size nch bs m c d) (c' t : Nat) :
    ringIndex d nch c' t = floorMod (size * nch + (((m : Int) - t) * nch + c')) (8 * size) := by
  rw [ringIndex, h.pointer, h.capacity]
  congr 1
  push_cast
  ring

/-- A RWRITE of the next sample replaces the oldest (spec 42 R118). -/
theorem RingHolds.rwrite (h : RingHolds size nch bs m c d) :
    RingHolds size nch bs m (c + 1) (rwrite d nch c (placeWord bs (m * nch + c))) where
  pointer := h.pointer
  capacity := h.capacity
  ring_wf := Memory.wf_write _ _ _ h.ring_wf
  recent p hlt hge := by
    have hslot := h.ringIndex_eq c 0
    rw [rwrite_ring, ← ringIndex_zero, hslot, Int.natCast_zero, sub_zero]
    push_cast at hlt hge
    by_cases hp : p = m * nch + c
    · rw [hp, Memory.read_write_self _ _ _ h.ring_wf]
    · rw [Memory.read_write_ne _ _ _ _ fun heq => hp ?_, h.recent p (by omega) (by omega)]
      have hnear : |(size * nch + p : Int) - (size * nch + (m * nch + c))| < (8 * size : Nat) := by
        rw [abs_lt]
        omega
      exact add_left_cancel (eq_of_floorMod_eq hnear heq)

/-- ADVANCE goes from behind the last channel of a frame to the next frame (spec 42 R116). -/
theorem RingHolds.advance (h : RingHolds size nch bs m nch d) : RingHolds size nch bs (m + 1) 0 (advance d) where
  pointer := congrArg Nat.succ h.pointer
  capacity := h.capacity
  ring_wf := h.ring_wf
  recent p hlt hge := by
    push_cast at hlt hge
    exact h.recent p (by linarith) (by linarith)

/-- What RREAD returns after the RWRITE of channel `c` (spec 42 R118). -/
theorem RingHolds.rread_eq (h : RingHolds size nch bs m (c + 1) d) (hfits : 21 * nch ≤ 8 * size) (hc : c < nch)
    {t : Nat} (ht : t ≤ 20) : rread d nch c t = streamWord nch bs c ((m : Int) - t) := by
  obtain ⟨hlow, hhigh⟩ := tap_place_bounds (nch := nch) ht
  rw [rread, h.ringIndex_eq, streamWord_eq_placeWord _ _ hc]
  refine h.recent _ ?_ ?_ <;>
  · rw [sub_mul]
    omega

/-- The engine during block `b` of the stream, before channel `c` of frame `m`. -/
def Engine.InStream (size nch : Nat) (bs : List Block) (b : Block) (m c : Nat) (e : Engine) : Prop :=
  e.inBuf = b.inWords ∧ RingHolds size nch bs m c e.inst

variable {b : Block} {e : Engine}

theorem Engine.InStream.processSample {s : Nat} (h : e.InStream size nch bs b (m + s) c) (hin : InWordsAt nch bs m b)
    (hs : s < b.frames) (hc : c < nch) :
    (processSample ⟨b.frames, nch, nch⟩ s c e).InStream size nch bs b (m + s) (c + 1) := by
  obtain ⟨hbuf, hring⟩ := h
  have hword : e.inWord (sampleIndex nch s c) = placeWord bs ((m + s : Nat) * nch + c) := by
    rw [Engine.inWord, hbuf, hin s hs c hc]
  refine ⟨by simpa using hbuf, ?_⟩
  rw [processSample_inst, hword]
  exact hring.rwrite

/-- The channels below `n` of a frame. -/
theorem Engine.InStream.channels {s n : Nat} (h : e.InStream size nch bs b (m + s) 0) (hin : InWordsAt nch bs m b)
    (hs : s < b.frames) (hn : n ≤ nch) :
    (Nat.fold n (fun c _ => Machine.processSample ⟨b.frames, nch, nch⟩ s c) e).InStream size nch bs b (m + s) n :=
  fold_advances (Engine.InStream size nch bs b (m + s)) n _ e h
    fun _ hc _ ha => ha.processSample hin hs (by omega)

/-- The frames below `n` of a block. -/
theorem Engine.InStream.frames {n : Nat} (h : e.InStream size nch bs b m 0) (hin : InWordsAt nch bs m b)
    (hn : n ≤ b.frames) :
    (Nat.fold n (fun s _ => processFrame ⟨b.frames, nch, nch⟩ s) e).InStream size nch bs b (m + n) 0 := by
  refine fold_advances (fun s => Engine.InStream size nch bs b (m + s) 0) n _ e h fun s hs a ha => ?_
  obtain ⟨hbuf, hring⟩ := ha.channels hin (by omega) le_rfl
  exact ⟨hbuf, hring.advance⟩

/-- The start of a block puts its IN words in place and leaves the ring (spec 20 R50, 41 R102). -/
theorem RingHolds.startBlock (h : RingHolds size nch bs m 0 e.inst) (b : Block) :
    (interp (Claims.startBlock b e)).InStream size nch bs b m 0 :=
  ⟨rfl, h.pointer, h.capacity, h.ring_wf, h.recent⟩

theorem RingHolds.processBlock (h : RingHolds size nch bs m 0 e.inst) (hin : InWordsAt nch bs m b) :
    RingHolds size nch bs (m + b.frames) 0 (Machine.processBlock ⟨b.frames, nch, nch⟩ (Claims.startBlock b e)).inst :=
  ((h.startBlock b).frames hin le_rfl).2

theorem RingHolds.duringFrame {s : Nat} (h : RingHolds size nch bs m 0 e.inst) (hin : InWordsAt nch bs m b)
    (hs : s < b.frames) (hc : c < nch) :
    RingHolds size nch bs (m + s) (c + 1)
      (Claims.duringFrame ⟨b.frames, nch, nch⟩ s c (interp (Claims.startBlock b e))).inst := by
  have hframe := ((h.startBlock b).frames hin hs.le).channels hin hs hc.le
  exact (hframe.processSample hin hs hc).2

theorem runBlocks_append (bs : List Block) : runBlocks nch (bs ++ [b]) e =
    Machine.processBlock ⟨b.frames, nch, nch⟩ (Claims.startBlock b (runBlocks nch bs e)) := by
  simp [runBlocks]

theorem totalFrames_append (bs : List Block) : totalFrames (bs ++ [b]) = totalFrames bs + b.frames := by
  simp [totalFrames]

/-- After the first blocks of a stream the ring holds its last samples (spec 42 R118). -/
theorem ringHolds_runBlocks (pre rest : List Block) (hfresh : FreshRing e.inst size)
    (hsupplied : BlocksSupplied nch (pre ++ rest)) :
    RingHolds size nch (pre ++ rest) (totalFrames pre) 0 (runBlocks nch pre e).inst := by
  induction pre using List.reverseRecOn generalizing rest with
  | nil => exact ringHolds_of_freshRing _ hfresh
  | append_singleton pre b ih =>
    rw [List.append_assoc, List.singleton_append] at hsupplied ⊢
    rw [runBlocks_append, totalFrames_append]
    exact (ih (b :: rest) hsupplied).processBlock (inWordsAt_append hsupplied)

end Stream

/-- Settles O30: the ring holds the last samples after the earlier blocks (`ringHolds_runBlocks`) and in every frame
of the current one (`RingHolds.duringFrame`), and the taps are among them (`RingHolds.rread_eq`). -/
theorem ringHoldsTheLastSamples : Obligations.RingHoldsTheLastSamples := by
  unfold Obligations.RingHoldsTheLastSamples
  intro e size nch bs b s c t hfresh hfits hsupplied hs hc ht
  have hring := ringHolds_runBlocks bs [b] hfresh hsupplied
  exact (hring.duringFrame (inWordsAt_append hsupplied) hs hc).rread_eq hfits hc ht

end Sys2Proof.Machine
end

section
/-! SUPPORT. What a whole PROCESS computes (spec 43 R125 to R131): MAC is the sum of R128, each OUT word is the `acc` of
its sample, and OUT and the ring are written nowhere else. -/

namespace Sys2Proof.Machine

open Sys2Proof.Claims

/-- MAC draws its free values in the order of its operations (spec 43 R128, 40 R88). -/
theorem mac_acc_eq_convolution (nch c : Nat) (e : Engine) :
    (mac nch c e).work.acc = convolution e.config e.draws e.work.eff (rread e.inst nch c) := rfl

/-- Settles O44: MAC writes `acc` and the draw counter by definition. -/
theorem macIsTheConvolution : Obligations.MacIsTheConvolution := by
  unfold Obligations.MacIsTheConvolution
  exact fun e nch c => ⟨mac_acc_eq_convolution nch c e, rfl⟩

/-- What no turn after turn `i` of a counted loop changes is as turn `i` left it. -/
theorem fold_eq_turn {α β : Type} (g : α → β) (f : Nat → α → α) (a : α) {i n : Nat} (hi : i < n)
    (hs : ∀ j < n, i < j → ∀ a, g (f j a) = g a) :
    g (Nat.fold n (fun j _ => f j) a) = g (f i (Nat.fold i (fun j _ => f j) a)) := by
  induction n with
  | zero => omega
  | succ n ih =>
    rw [Nat.fold_succ]
    rcases Nat.lt_succ_iff_lt_or_eq.1 hi with hlt | rfl
    · rw [hs n (by omega) hlt]
      exact ih hlt fun j hj => hs j (by omega)
    · rfl

section Block

variable (o : ProcessOperands) (e : Engine)

/-- What no frame changes, no PROCESS changes after its INTERP. -/
theorem processBlock_eq_interp {β : Type} (g : Engine → β) (hframe : ∀ s a, g (processFrame o s a) = g a) :
    g (processBlock o e) = g (interp e) :=
  fold_same g o.frames _ (interp e) fun s _ a => hframe s a

@[simp] theorem processBlock_config : (processBlock o e).config = e.config :=
  processBlock_eq_interp o e Engine.config (processFrame_config o)
@[simp] theorem processBlock_xs : (processBlock o e).work.xs = e.inst.speedPercent :=
  processBlock_eq_interp o e (fun a => a.work.xs) (processFrame_xs o)
@[simp] theorem processBlock_omx : (processBlock o e).work.omx = (interp e).work.omx :=
  processBlock_eq_interp o e (fun a => a.work.omx) (processFrame_omx o)
@[simp] theorem processBlock_eff : (processBlock o e).work.eff = (interp e).work.eff :=
  processBlock_eq_interp o e (fun a => a.work.eff) (processFrame_eff o)

/-- The engine in frame `s` after the samples of its first `c` channels (spec 43 R126). -/
def afterChannels (s c : Nat) : Engine := Nat.fold c (fun c' _ => processSample o s c') e

/-- The engine after the first `m` frames (spec 43 R126). -/
def afterFrames (m : Nat) : Engine := Nat.fold m (fun s _ => processFrame o s) e

theorem duringFrame_eq (s c : Nat) :
    duringFrame o s c e = fetchAndWrite o s c (afterChannels o (afterFrames o e s) s c) := rfl

theorem wf_out_afterChannels (s c : Nat) (h : Memory.wf e.out = true) :
    Memory.wf (afterChannels o e s c).out = true :=
  fold_keeps (fun a : Engine => Memory.wf a.out = true) c _ e h fun _ _ _ ha => Memory.wf_write _ _ _ ha

theorem wf_out_afterFrames (m : Nat) (h : Memory.wf e.out = true) : Memory.wf (afterFrames o e m).out = true :=
  fold_keeps (fun a : Engine => Memory.wf a.out = true) m _ e h fun s _ a ha => wf_out_afterChannels o a s _ ha

/-- A sample stores its own OUT word and no other (spec 43 R129). -/
theorem read_out_processSample_ne {s c k : Nat} (hk : k ≠ sampleIndex o.outChannels s c) :
    Memory.read (processSample o s c e).out k = Memory.read e.out k :=
  Memory.read_write_ne _ _ _ _ hk

/-- The OUT word of a sample lies in its frame (spec 20 R44). -/
theorem sampleIndex_bounds {nch s c : Nat} (hc : c < nch) :
    s * nch ≤ sampleIndex nch s c ∧ sampleIndex nch s c < (s + 1) * nch := by
  rw [sampleIndex, Nat.succ_mul]
  omega

/-- Frame `s` stores the `outChannels` words from its first on (spec 43 R129). -/
theorem read_out_processFrame_outside {s k : Nat} (hk : k < s * o.outChannels ∨ (s + 1) * o.outChannels ≤ k) :
    Memory.read (processFrame o s e).out k = Memory.read e.out k := by
  refine fold_same (fun a : Engine => Memory.read a.out k) o.outChannels _ e fun c hc a => ?_
  have := sampleIndex_bounds (s := s) hc
  exact read_out_processSample_ne o a (by omega)

/-- The frames of a PROCESS store the first `frames * outChannels` words (spec 43 R129). -/
theorem read_out_processBlock_outside {k : Nat} (hk : o.frames * o.outChannels ≤ k) :
    Memory.read (processBlock o e).out k = Memory.read e.out k :=
  fold_same (fun a : Engine => Memory.read a.out k) o.frames _ (interp e) fun _ hs a =>
    read_out_processFrame_outside o a (.inr ((Nat.mul_le_mul_right _ hs).trans hk))

/-- The OUT word of a channel is the `acc` its MAC left: no later channel stores there (spec 43 R129). -/
theorem read_out_processFrame {s c : Nat} (hwf : Memory.wf e.out = true) (hc : c < o.outChannels) :
    Memory.read (processFrame o s e).out (sampleIndex o.outChannels s c) =
      (mac o.outChannels c (fetchAndWrite o s c (afterChannels o e s c))).work.acc := by
  refine (fold_eq_turn (fun a : Engine => Memory.read a.out _) (processSample o s) e hc fun c' _ hlater a => ?_).trans
    (Memory.read_write_self _ _ _ (wf_out_afterChannels o e s c hwf))
  exact read_out_processSample_ne o a (by unfold sampleIndex; omega)

/-- The OUT word of a sample is the `acc` its MAC left: no later frame stores there (spec 43 R129). -/
theorem read_out_processBlock {m c : Nat} (hwf : Memory.wf e.out = true) (hm : m < o.frames) (hc : c < o.outChannels) :
    Memory.read (processBlock o e).out (sampleIndex o.outChannels m c) =
      (mac o.outChannels c (duringFrame o m c (interp e))).work.acc := by
  refine (fold_eq_turn (fun a : Engine => Memory.read a.out _) (processFrame o) (interp e) hm
    fun s _ hlater a => ?_).trans (read_out_processFrame o _ (wf_out_afterFrames o (interp e) m hwf) hc)
  exact read_out_processFrame_outside o a
    (.inl ((sampleIndex_bounds hc).2.trans_le (Nat.mul_le_mul_right _ hlater)))

end Block

/-- From `d` to `d'` the pointer has advanced by `m`, and word `k` of the ring is untouched. -/
structure RingWordKept (k m : Nat) (d d' : DspState) : Prop where
  pointer : d'.sampleCount = d.sampleCount + m
  capacity : d'.capacity = d.capacity
  word : Memory.read d'.ring k = Memory.read d.ring k

/-- A sample writes the ring at its write index only (spec 42 R113). -/
theorem RingWordKept.processSample {k m : Nat} {d : DspState} {e : Engine} (h : RingWordKept k m d e.inst)
    {o : ProcessOperands} {c : Nat}
    (hk : k ≠ floorMod ((d.sampleCount + m : Int) * o.outChannels + c) d.capacity.toNat) (s : Nat) :
    RingWordKept k m d (processSample o s c e).inst := by
  refine ⟨h.pointer, h.capacity, ?_⟩
  have hindex : k ≠ writeIndex e.inst o.outChannels c := by
    rwa [writeIndex, h.pointer, h.capacity, Nat.cast_add]
  rw [processSample_inst, rwrite_ring, Memory.read_write_ne _ _ _ _ hindex, h.word]

/-- A PROCESS writes the ring at the write indices of its frames and channels only (spec 42 R113, R116). -/
theorem ringWordKept_processBlock (o : ProcessOperands) (e : Engine) {k : Nat}
    (hk : ∀ m < o.frames, ∀ c < o.outChannels,
      k ≠ floorMod ((e.inst.sampleCount + m : Int) * o.outChannels + c) e.inst.capacity.toNat) :
    RingWordKept k o.frames e.inst (processBlock o e).inst := by
  refine fold_advances (fun m a => RingWordKept k m e.inst a.inst) o.frames _ (interp e) ⟨rfl, rfl, rfl⟩
    fun m hm a ha => ?_
  have hchannels : RingWordKept k m e.inst (afterChannels o a m o.outChannels).inst :=
    fold_keeps (fun a => RingWordKept k m e.inst a.inst) o.outChannels _ a ha
      fun c hc _ ha => ha.processSample (hk m hm c hc) m
  exact ⟨congrArg Nat.succ hchannels.pointer, hchannels.capacity, hchannels.word⟩

theorem entryCheck_process {s : State} (hfault : s.fault = false) (hport : s.port = .c) (f i o : Nat) :
    s.entryCheck (.process f i o) = none :=
  (entryCheck_none _ _).2 ⟨hfault, by simp [hport]⟩

/-- On a dead block a PROCESS that passes the common checks faults (spec 60 R171). -/
theorem exec_process_of_dead {s : State} (hfault : s.fault = false) (hport : s.port = .c) (hinst : s.inst = none)
    (f i o : Nat) : exec (.process f i o) s = .next (s.raise .errNoInstance) := by
  simp [exec, execProcess, entryCheck_process hfault hport, hinst]

/-- On a living block a PROCESS that fails one of its own checks is answered with that error (spec 43 R125). -/
theorem exec_process_of_check {s : State} {d : DspState} {f i o : Nat} {e : Status} (hfault : s.fault = false)
    (hport : s.port = .c) (hinst : s.inst = some d) (hcheck : processCheck s.config ⟨f, i, o⟩ d = some e) :
    exec (.process f i o) s = .next (s.raise e) := by
  simp [exec, execProcess, entryCheck_process hfault hport, hinst, hcheck]

/-- The block after an accepted PROCESS (spec 43 R125). -/
def State.processed (s : State) (d : DspState) (f n : Nat) : State :=
  (s.commit (processBlock ⟨f, n, n⟩ (s.engine d))).respond .ok 0#32 0#32

section Processed

variable (s : State) (d : DspState) (f n : Nat)

@[simp] theorem State.processed_config : (s.processed d f n).config = s.config := by simp [State.processed]
@[simp] theorem State.processed_inputs : (s.processed d f n).inputs = s.inputs := by simp [State.processed]
@[simp] theorem State.processed_port : (s.processed d f n).port = s.port := by simp [State.processed]
@[simp] theorem State.processed_inBuf : (s.processed d f n).inBuf = s.inBuf := by simp [State.processed]
@[simp] theorem State.processed_fault : (s.processed d f n).fault = s.fault := by simp [State.processed]
@[simp] theorem State.processed_seq : (s.processed d f n).seq = s.seq := by simp [State.processed]
@[simp] theorem State.processed_inst :
    (s.processed d f n).inst = some (processBlock ⟨f, n, n⟩ (s.engine d)).inst := by simp [State.processed]
@[simp] theorem State.processed_work :
    (s.processed d f n).work = (processBlock ⟨f, n, n⟩ (s.engine d)).work := by simp [State.processed]
@[simp] theorem State.processed_out :
    (s.processed d f n).out = (processBlock ⟨f, n, n⟩ (s.engine d)).out := by simp [State.processed]

end Processed

/-- An accepted PROCESS completes, with one response on the C-port (spec 43 R125, 30 R60). -/
theorem exec_process_of_accepted {s : State} {d : DspState} {f : Nat} (h : ProcessAccepted s d f) (n : Nat) :
    exec (.process f n n) s = .next (s.processed d f n) ∧
    (s.processed d f n).rspC = ⟨.ok, 0#32, 0#32⟩ :: s.rspC ∧ (s.processed d f n).rspP = s.rspP := by
  obtain ⟨hfault, hport, hinst, hcapacity, hend⟩ := h
  have hcheck : processCheck s.config ⟨f, n, n⟩ d = none := (processCheck_none _ _ _).2 ⟨rfl, hcapacity, hend⟩
  simp [exec, execProcess, entryCheck_process hfault hport, hinst, hcheck, State.processed, State.respond_rspC,
    State.respond_rspP, hport]

/-- Settles O27: OUT by `read_out_processBlock`, the ring by `ringWordKept_processBlock`. -/
theorem processCompletes : Obligations.ProcessCompletes := by
  unfold Obligations.ProcessCompletes
  intro s d f n haccepted
  have hring (k) (hk : ∀ m < f, ∀ c < n, k ≠ floorMod ((d.sampleCount + m : Int) * n + c) d.capacity.toNat) :=
    (ringWordKept_processBlock ⟨f, n, n⟩ (s.engine d) hk).word
  have hout (k) (hk : f * n ≤ k) := read_out_processBlock_outside ⟨f, n, n⟩ (s.engine d) hk
  obtain ⟨hexec, hrspC, hrspP⟩ := exec_process_of_accepted haccepted n
  refine ⟨s.processed d f n, _, hexec, rfl, s.processed_inst d f n, ?_, ?_, ?_, ?_, ?_, ?_, ?_, ?_, ?_,
    fun hwf m hm c hc => ?written, fun k hk => ?kept, hring, hrspC, hrspP, ?_, ?_, ?_, ?_, ?_, ?_⟩
  case written =>
    rw [State.processed_out]
    exact read_out_processBlock ⟨f, n, n⟩ (s.engine d) hwf hm hc
  case kept => rw [State.processed_out, hout k hk, State.engine_out]
  all_goals simp

theorem processBlock_of_no_frames (n : Nat) (e : Engine) : processBlock ⟨0, n, n⟩ e = interp e := rfl

/-- Settles O28: each check answers its error, and past them `processBlock` is INTERP. -/
theorem zeroFramesTouchNothing : Obligations.ZeroFramesTouchNothing := by
  unfold Obligations.ZeroFramesTouchNothing
  intro s i o hport
  refine ⟨fun hfaulted => ?faulted, fun hfault hdead => ?dead, fun d hfault hinst =>
    ⟨fun hne => ?mismatch, fun heq hempty => ?empty, fun heq hcapacity hend => ?accepted⟩⟩
  case faulted =>
    rw [exec_of_entryCheck_some (e := .errFaulted) (by simp [State.entryCheck, hfaulted]),
      State.raise_of_not_setsFault _ _ rfl]
  case dead => rw [exec_process_of_dead hfault hport hdead, State.raise_of_setsFault _ _ rfl]
  case mismatch =>
    rw [exec_process_of_check (e := .errChannelMismatch) hfault hport hinst (by simp [processCheck, hne]),
      State.raise_of_not_setsFault _ _ rfl]
  case empty =>
    rw [exec_process_of_check (e := .errEmptyBuffer) hfault hport hinst (by simp [processCheck, heq, hempty]),
      State.raise_of_not_setsFault _ _ rfl]
  case accepted =>
    subst heq
    obtain ⟨hexec, hrspC, hrspP⟩ := exec_process_of_accepted (f := 0) ⟨hfault, hport, hinst, hcapacity, hend⟩ i
    refine ⟨s.processed d 0 i, hexec, ?_⟩
    simp [processBlock_of_no_frames, hinst, hrspC, hrspP]

/-- A frame of no channels is its ADVANCE (spec 43 R131). -/
theorem processBlock_of_no_channels (f : Nat) (e : Engine) : processBlock ⟨f, 0, 0⟩ e =
    { interp e with inst := { e.inst with sampleCount := e.inst.sampleCount + f } } := by
  refine fold_advances
    (fun m a => a = { interp e with inst := { e.inst with sampleCount := e.inst.sampleCount + m } }) f _ (interp e) rfl
    fun m _ a ha => ?_
  rw [ha]
  rfl

/-- Settles O29: by `processBlock_of_no_channels`. -/
theorem zeroChannelsOnlyAdvance : Obligations.ZeroChannelsOnlyAdvance := by
  unfold Obligations.ZeroChannelsOnlyAdvance
  intro s d f haccepted
  obtain ⟨hexec, hrspC, hrspP⟩ := exec_process_of_accepted haccepted 0
  refine ⟨s.processed d f 0, hexec, ?_⟩
  simp [processBlock_of_no_channels, hrspC, hrspP]

end Sys2Proof.Machine
end

section
/-! SUPPORT. OUT during a stream at one stride (spec 43 R133): the taps of MAC are the last samples of the stream. -/

namespace Sys2Proof.Machine

open Sys2Proof.Claims

/-- Two counted loops whose turns keep a relation end in states that are related. -/
theorem fold_rel {α β : Type} (R : α → β → Prop) (n : Nat) (f : (i : Nat) → i < n → α → α)
    (g : (i : Nat) → i < n → β → β) {a : α} {b : β} (h0 : R a b)
    (hs : ∀ i h a b, R a b → R (f i h a) (g i h b)) : R (Nat.fold n f a) (Nat.fold n g b) := by
  induction n with
  | zero => simpa using h0
  | succ n ih =>
    rw [Nat.fold_succ, Nat.fold_succ]
    exact hs _ _ _ _ (ih _ _ fun i h => hs i (by omega))

/-- The sum of R128 is over taps 0 to 20 only. -/
theorem convolution_congr (cfg : Config) (k : Nat) (eff : Vector Word Config.taps) {x y : Nat → Word}
    (h : ∀ i ≤ 20, x i = y i) : convolution cfg k eff x = convolution cfg k eff y := by
  refine fold_rel (· = ·) Config.taps _ _ rfl fun i hi acc acc' hacc => ?_
  rw [h i (Nat.le_of_lt_succ hi), hacc]

section Taps

variable (o : ProcessOperands) (e : Engine) {m c : Nat}

/-- What no frame, no sample and no RWRITE changes is unchanged all through a PROCESS. -/
theorem duringFrame_same {β : Type} (g : Engine → β) (hframe : ∀ s a, g (processFrame o s a) = g a)
    (hsample : ∀ s c a, g (processSample o s c a) = g a) (hfetch : ∀ s c a, g (fetchAndWrite o s c a) = g a) :
    g (duringFrame o m c e) = g e :=
  calc
    _ = g (afterChannels o (afterFrames o e m) m c) := by rw [duringFrame_eq, hfetch]
    _ = g (afterFrames o e m) := fold_same g c _ _ fun c' _ a => hsample m c' a
    _ = g e := fold_same g m _ e fun s _ a => hframe s a

@[simp] theorem duringFrame_config : (duringFrame o m c e).config = e.config :=
  duringFrame_same o e Engine.config (processFrame_config o) (processSample_config o) (fetchAndWrite_config o)

/-- One filter serves the whole PROCESS (spec 41 R108, 43 R126). -/
@[simp] theorem duringFrame_eff : (duringFrame o m c e).work.eff = e.work.eff :=
  duringFrame_same o e (fun a => a.work.eff) (processFrame_eff o) (processSample_eff o) fun _ _ _ => rfl

/-- The OUT word of a sample is the sum of R128 over the samples its taps return (spec 43 R128, R129). -/
theorem read_out_eq_convolution {x : Nat → Word} (hwf : Memory.wf e.out = true) (hm : m < o.frames)
    (hc : c < o.outChannels)
    (htaps : ∀ t ≤ 20, rread (duringFrame o m c (interp e)).inst o.outChannels c t = x t) :
    Memory.read (processBlock o e).out (sampleIndex o.outChannels m c) =
      convolution e.config (duringFrame o m c (interp e)).draws (interp e).work.eff x := by
  rw [read_out_processBlock o e hwf hm hc, mac_acc_eq_convolution, duringFrame_config, duringFrame_eff, interp_config]
  exact convolution_congr _ _ _ htaps

end Taps

@[simp] theorem runBlocks_config (nch : Nat) (bs : List Block) (e : Engine) :
    (runBlocks nch bs e).config = e.config := by
  induction bs using List.reverseRecOn with
  | nil => rfl
  | append_singleton bs b ih =>
    rw [runBlocks_append, processBlock_config]
    exact ih

theorem wf_out_runBlocks (nch : Nat) (bs : List Block) {e : Engine} (h : Memory.wf e.out = true) :
    Memory.wf (runBlocks nch bs e).out = true := by
  induction bs using List.reverseRecOn with
  | nil => exact h
  | append_singleton bs b ih =>
    rw [runBlocks_append]
    exact wf_out_afterFrames _ _ _ ih

/-- Settles O31: the OUT word is the `acc` of its MAC, whose taps are the last samples of the stream (O30). -/
theorem outputIsTheConvolution : Obligations.OutputIsTheConvolution := by
  unfold Obligations.OutputIsTheConvolution
  intro e size nch bs b s c hfresh hwf hfits hsupplied hs hc
  refine ⟨(duringFrame ⟨b.frames, nch, nch⟩ s c (interp (startBlock b (runBlocks nch bs e)))).draws, ?_⟩
  rw [runBlocks_append, ← runBlocks_config nch bs e]
  exact read_out_eq_convolution ⟨b.frames, nch, nch⟩ _ (wf_out_runBlocks nch bs hwf) hs hc
    fun t ht => ringHoldsTheLastSamples e size nch bs b s c t hfresh hfits hsupplied hs hc ht

end Sys2Proof.Machine
end

section
/-! SUPPORT. Two PROCESSes against one (spec 43 R135): with `NAN_RESULT` fixed no word depends on the draw counter, so a
run of frames leaves the same instance and working registers wherever its IN words stand and its frames are counted. -/

namespace Sys2Proof.Machine

open Sys2Proof.Claims

theorem Working.eq_of_fields {u v : Working} (hxs : u.xs = v.xs) (homx : u.omx = v.omx) (heff : u.eff = v.eff)
    (hacc : u.acc = v.acc) : u = v := by
  cases u
  cases v
  simp_all

theorem resolve_of_fixed {e : Engine} {w : Word} (h : e.config.nanResult = .fixed w) (k : Nat) (r : Option Word) :
    e.resolve k r = r.getD w := by
  rw [Engine.resolve, h]
  rfl

/-- INTERP writes `xs`, `omx` and `eff` from the parameters and the speed alone (spec 41 R102). -/
theorem interp_filter_congr {a b : Engine} {w : Word} (hnan : a.config.nanResult = .fixed w)
    (hconfig : a.config = b.config) (hspeed : a.inst.speedPercent = b.inst.speedPercent) :
    (interp a).work.omx = (interp b).work.omx ∧ (interp a).work.eff = (interp b).work.eff := by
  have hnan' : b.config.nanResult = .fixed w := hconfig ▸ hnan
  have homx : (interp a).work.omx = (interp b).work.omx := by
    rw [interp_omx, interp_omx, resolve_of_fixed hnan, resolve_of_fixed hnan', hconfig, hspeed]
  refine ⟨homx, Vector.ext fun i hi => (interp_eff a ⟨i, hi⟩).trans (Eq.trans ?_ (interp_eff b ⟨i, hi⟩).symm)⟩
  simp only [Engine.blend, resolve_of_fixed hnan, resolve_of_fixed hnan', hconfig, hspeed, homx]

/-- INTERP after a PROCESS at the speed of that PROCESS computes the filter the working registers hold already. -/
theorem interp_work_of_processed {a e : Engine} {o : ProcessOperands} {w : Word}
    (hnan : e.config.nanResult = .fixed w) (hconfig : a.config = e.config)
    (hspeed : a.inst.speedPercent = e.inst.speedPercent) (hwork : a.work = (processBlock o e).work) :
    (interp a).work = a.work := by
  obtain ⟨homx, heff⟩ := interp_filter_congr (hconfig ▸ hnan) hconfig hspeed
  refine Working.eq_of_fields ?_ ?_ ?_ rfl
  · rw [interp_xs, hwork, processBlock_xs, hspeed]
  · rw [homx, hwork, processBlock_omx]
  · rw [heff, hwork, processBlock_eff]

/-- The engines hold the same but for OUT, the draw counter and the place of the IN words: those of `F` frames at stride
`n` stand `p` frames further on in `b`. -/
structure Engine.Alike (w : Word) (n p F : Nat) (a b : Engine) : Prop where
  nan : a.config.nanResult = .fixed w
  config : a.config = b.config
  inst : a.inst = b.inst
  work : a.work = b.work
  inWords : ∀ s < F, ∀ c < n, ∃ v, a.inBuf[sampleIndex n s c]? = some v ∧ b.inBuf[sampleIndex n (p + s) c]? = some v

section Alike

variable {w : Word} {n p F : Nat} {a b : Engine}

theorem Engine.Alike.fetchAndWrite (h : a.Alike w n p F b) (f f' : Nat) {s c : Nat} (hs : s < F) (hc : c < n) :
    (fetchAndWrite ⟨f, n, n⟩ s c a).Alike w n p F (fetchAndWrite ⟨f', n, n⟩ (p + s) c b) := by
  obtain ⟨v, ha, hb⟩ := h.inWords s hs c hc
  have hword : a.inWord (sampleIndex n s c) = b.inWord (sampleIndex n (p + s) c) := by
    rw [Engine.inWord, Engine.inWord, ha, hb]
  exact ⟨h.nan, h.config, by rw [fetchAndWrite_inst, fetchAndWrite_inst, h.inst, hword], h.work, h.inWords⟩

theorem Engine.Alike.tapSum (h : a.Alike w n p F b) (nch c : Nat) (i : Fin Config.taps) (k : Nat) (acc : Word) :
    tapSum a nch c i k acc = tapSum b nch c i k acc := by
  have hnan : b.config.nanResult = .fixed w := h.config ▸ h.nan
  simp only [Machine.tapSum, resolve_of_fixed h.nan, resolve_of_fixed hnan, h.config, h.inst, h.work]

theorem Engine.Alike.mac (h : a.Alike w n p F b) (c : Nat) : (mac n c a).Alike w n p F (mac n c b) := by
  have hacc : (Machine.mac n c a).work.acc = (Machine.mac n c b).work.acc := by simp only [mac_acc, h.tapSum]
  refine ⟨h.nan, h.config, h.inst, Working.eq_of_fields ?_ ?_ ?_ hacc, h.inWords⟩ <;> simp [h.work]

theorem Engine.Alike.processSample (h : a.Alike w n p F b) (f f' : Nat) {s c : Nat} (hs : s < F) (hc : c < n) :
    (processSample ⟨f, n, n⟩ s c a).Alike w n p F (processSample ⟨f', n, n⟩ (p + s) c b) := by
  obtain ⟨hnan, hconfig, hinst, hwork, hin⟩ := (h.fetchAndWrite f f' hs hc).mac c
  exact ⟨hnan, hconfig, hinst, hwork, hin⟩

theorem Engine.Alike.afterChannels (h : a.Alike w n p F b) (f f' : Nat) {s c : Nat} (hs : s < F) (hc : c ≤ n) :
    (afterChannels ⟨f, n, n⟩ a s c).Alike w n p F (afterChannels ⟨f', n, n⟩ b (p + s) c) :=
  fold_rel (Engine.Alike w n p F) c _ _ h fun _ _ _ _ hab => hab.processSample f f' hs (by omega)

theorem Engine.Alike.processFrame (h : a.Alike w n p F b) (f f' : Nat) {s : Nat} (hs : s < F) :
    (processFrame ⟨f, n, n⟩ s a).Alike w n p F (processFrame ⟨f', n, n⟩ (p + s) b) := by
  obtain ⟨hnan, hconfig, hinst, hwork, hin⟩ := h.afterChannels f f' hs le_rfl
  exact ⟨hnan, hconfig, congrArg advance hinst, hwork, hin⟩

/-- The frames of `a` against those of a longer PROCESS, the first `p` of which came before. -/
theorem Engine.Alike.afterFrames {f' : Nat} {e : Engine} (h : a.Alike w n p F (afterFrames ⟨f', n, n⟩ e p)) (f : Nat)
    {m : Nat} (hm : m ≤ F) :
    (afterFrames ⟨f, n, n⟩ a m).Alike w n p F (afterFrames ⟨f', n, n⟩ e (p + m)) := by
  have hsplit : Machine.afterFrames ⟨f', n, n⟩ e (p + m) =
      Nat.fold m (fun s _ => Machine.processFrame ⟨f', n, n⟩ (p + s)) (Machine.afterFrames ⟨f', n, n⟩ e p) :=
    Nat.fold_add _ _
  rw [hsplit]
  exact fold_rel (Engine.Alike w n p F) m _ _ h fun _ _ _ _ hab => hab.processFrame f f' (by omega)

/-- A sample is the same whether its PROCESS is the short or the long one. -/
theorem Engine.Alike.mac_duringFrame {f' : Nat} {e : Engine} (h : a.Alike w n p F (Machine.afterFrames ⟨f', n, n⟩ e p))
    (f : Nat) {m c : Nat} (hm : m < F) (hc : c < n) :
    (Machine.mac n c (duringFrame ⟨f, n, n⟩ m c a)).work.acc =
      (Machine.mac n c (duringFrame ⟨f', n, n⟩ (p + m) c e)).work.acc := by
  have hframes := h.afterFrames f hm.le
  have hsample := ((hframes.afterChannels f f' hm hc.le).fetchAndWrite f f' hm hc).mac c
  exact congrArg Working.acc hsample.work

/-- INTERP keeps two engines alike. -/
theorem Engine.Alike.interp (h : a.Alike w n p F b) : (interp a).Alike w n p F (interp b) := by
  obtain ⟨homx, heff⟩ := interp_filter_congr h.nan h.config (congrArg DspState.speedPercent h.inst)
  refine ⟨h.nan, h.config, h.inst, Working.eq_of_fields ?_ homx heff ?_, h.inWords⟩
  · rw [interp_xs, interp_xs, h.inst]
  · rw [interp_acc, interp_acc, h.work]

end Alike

/-- A word of OUT below `frames * n` is that of some sample (spec 20 R44). -/
theorem exists_sampleIndex {f n k : Nat} (hk : k < f * n) : ∃ m < f, ∃ c < n, k = sampleIndex n m c := by
  have hn : 0 < n := Nat.pos_of_ne_zero fun h => by simp [h] at hk
  exact ⟨k / n, (Nat.div_lt_iff_lt_mul hn).2 hk, k % n, Nat.mod_lt k hn, (Nat.div_add_mod' k n).symm⟩

theorem sampleIndex_lt {f n s c : Nat} (hs : s < f) (hc : c < n) : sampleIndex n s c < f * n :=
  (sampleIndex_bounds hc).2.trans_le (Nat.mul_le_mul_right n hs)

/-- A sample `p` frames later stands `p * n` words further on. -/
theorem sampleIndex_add (n p s c : Nat) : sampleIndex n (p + s) c = p * n + sampleIndex n s c := by
  simp only [sampleIndex]
  ring

/-- A PROCESS of `f` frames does what frames `p` to `p + f - 1` of a longer PROCESS do: it leaves the same instance and
working registers, and stores the same words `p * n` words lower. -/
theorem processBlock_of_alike {a e : Engine} {w : Word} {n p f f' : Nat}
    (h : (interp a).Alike w n p f (afterFrames ⟨f', n, n⟩ (interp e) p)) (hend : p + f ≤ f')
    (hwf : Memory.wf a.out = true) (hwf' : Memory.wf e.out = true) :
    (processBlock ⟨f, n, n⟩ a).inst = (afterFrames ⟨f', n, n⟩ (interp e) (p + f)).inst ∧
    (processBlock ⟨f, n, n⟩ a).work = (afterFrames ⟨f', n, n⟩ (interp e) (p + f)).work ∧
    ∀ k < f * n, Memory.read (processBlock ⟨f, n, n⟩ a).out k =
      Memory.read (processBlock ⟨f', n, n⟩ e).out (p * n + k) := by
  have hframes := h.afterFrames f le_rfl
  refine ⟨hframes.inst, hframes.work, fun k hk => ?_⟩
  obtain ⟨m, hm, c, hc, rfl⟩ := exists_sampleIndex hk
  have hm' : p + m < f' := by omega
  rw [← sampleIndex_add]
  calc
    _ = _ := read_out_processBlock ⟨f, n, n⟩ a hwf hm hc
    _ = _ := h.mac_duringFrame f hm hc
    _ = _ := (read_out_processBlock ⟨f', n, n⟩ e hwf' hm' hc).symm

theorem afterFrames_inBuf (o : ProcessOperands) (e : Engine) (m : Nat) : (afterFrames o e m).inBuf = e.inBuf :=
  fold_same Engine.inBuf m _ e fun s _ a => processFrame_inBuf o s a

/-- The engine with these IN words in place. -/
def Engine.withIn (e : Engine) (ws : List Word) : Engine := { e with inBuf := ws }

section Split

variable {e : Engine} {w : Word} {f g n : Nat} {xs ys : List Word}

/-- The first `f` frames of the long PROCESS read what the first PROCESS reads. -/
theorem alike_first (hnan : e.config.nanResult = .fixed w) (hxs : xs.length = f * n) :
    (e.withIn xs).Alike w n 0 f (e.withIn (xs ++ ys)) := by
  refine ⟨hnan, rfl, rfl, rfl, fun s hs c hc => ?_⟩
  have hlt : sampleIndex n s c < xs.length := hxs ▸ sampleIndex_lt hs hc
  refine ⟨_, List.getElem?_eq_getElem hlt, ?_⟩
  rw [Nat.zero_add]
  exact (List.getElem?_append_left hlt).trans (List.getElem?_eq_getElem hlt)

/-- The second PROCESS starts where the long one stands after `f` frames: the state is what these frames leave
(`alike_first`), and INTERP finds the filter it computes already there. -/
theorem alike_second (hnan : e.config.nanResult = .fixed w) (hxs : xs.length = f * n) (hys : ys.length = g * n) :
    (interp ((processBlock ⟨f, n, n⟩ (e.withIn xs)).withIn ys)).Alike w n f g
      (afterFrames ⟨f + g, n, n⟩ (interp (e.withIn (xs ++ ys))) f) := by
  have hfirst := (alike_first (ys := ys) hnan hxs).interp.afterFrames (f' := f + g) f le_rfl
  rw [Nat.zero_add] at hfirst
  obtain ⟨hnan', hconfig, hinst, hwork, -⟩ := hfirst
  have hfilter : (interp ((processBlock ⟨f, n, n⟩ (e.withIn xs)).withIn ys)).work =
      (processBlock ⟨f, n, n⟩ (e.withIn xs)).work :=
    interp_work_of_processed (e := e.withIn xs) hnan (processBlock_config _ _) (processBlock_speedPercent _ _) rfl
  refine ⟨hnan', hconfig, hinst, hfilter.trans hwork, fun s hs c hc => ?_⟩
  have hlt : sampleIndex n s c < ys.length := hys ▸ sampleIndex_lt hs hc
  have hplace : (xs ++ ys)[sampleIndex n (f + s) c]? = ys[sampleIndex n s c]? := by
    rw [sampleIndex_add, ← hxs, List.getElem?_append_right (Nat.le_add_right _ _), Nat.add_sub_cancel_left]
  rw [afterFrames_inBuf]
  exact ⟨_, List.getElem?_eq_getElem hlt, hplace.trans (List.getElem?_eq_getElem hlt)⟩

/-- The first PROCESS stores the first words of the long one. -/
theorem read_out_first (hnan : e.config.nanResult = .fixed w) (hwf : Memory.wf e.out = true)
    (hxs : xs.length = f * n) : ∀ k < f * n,
      Memory.read (processBlock ⟨f, n, n⟩ (e.withIn xs)).out k =
        Memory.read (processBlock ⟨f + g, n, n⟩ (e.withIn (xs ++ ys))).out k := by
  obtain ⟨-, -, hout⟩ := processBlock_of_alike (p := 0) (f' := f + g) (alike_first (ys := ys) hnan hxs).interp
    (by omega) hwf hwf
  simpa using hout

/-- The second PROCESS ends as the long one does, and stores its last words. -/
theorem processBlock_second (hnan : e.config.nanResult = .fixed w) (hwf : Memory.wf e.out = true)
    (hxs : xs.length = f * n) (hys : ys.length = g * n) :
    (processBlock ⟨g, n, n⟩ ((processBlock ⟨f, n, n⟩ (e.withIn xs)).withIn ys)).inst =
      (processBlock ⟨f + g, n, n⟩ (e.withIn (xs ++ ys))).inst ∧
    (processBlock ⟨g, n, n⟩ ((processBlock ⟨f, n, n⟩ (e.withIn xs)).withIn ys)).work =
      (processBlock ⟨f + g, n, n⟩ (e.withIn (xs ++ ys))).work ∧
    ∀ k < g * n,
      Memory.read (processBlock ⟨g, n, n⟩ ((processBlock ⟨f, n, n⟩ (e.withIn xs)).withIn ys)).out k =
        Memory.read (processBlock ⟨f + g, n, n⟩ (e.withIn (xs ++ ys))).out (f * n + k) :=
  processBlock_of_alike (alike_second hnan hxs hys) le_rfl (wf_out_afterFrames _ _ _ hwf) hwf

end Split

/-- The block with these IN words in place. -/
def State.withIn (s : State) (ws : List Word) : State := { s with inBuf := ws }

/-- A PROCESS that follows another works on what that one left, with its own IN words. -/
theorem State.engine_processed_withIn (s : State) (d : DspState) (f n : Nat) (ws : List Word) :
    ((s.processed d f n).withIn ws).engine (processBlock ⟨f, n, n⟩ (s.engine d)).inst =
      (processBlock ⟨f, n, n⟩ (s.engine d)).withIn ws := by
  simp [State.engine, State.processed, State.withIn, Engine.withIn]

/-- After the first frames of an accepted PROCESS the other frames are accepted too (spec 43 R135). -/
theorem processAccepted_processed {s : State} {d : DspState} {f g : Nat} (h : ProcessAccepted s d (f + g)) (n : Nat) :
    ProcessAccepted (s.processed d f n) (processBlock ⟨f, n, n⟩ (s.engine d)).inst g := by
  obtain ⟨hfault, hport, -, hcapacity, hend⟩ := h
  refine ⟨?_, ?_, State.processed_inst s d f n, ?_, ?_⟩
  · rwa [State.processed_fault]
  · rwa [State.processed_port]
  · rwa [processBlock_capacity]
  · rwa [processBlock_sampleCount, State.processed_config, Nat.add_assoc]

/-- Settles O32: the first PROCESS does the frames below `f` of the long one (`read_out_first`), the second the rest
(`processBlock_second`). -/
theorem twoBlocksEqualOne : Obligations.TwoBlocksEqualOne := by
  unfold Obligations.TwoBlocksEqualOne
  intro s d f g n xs ys w hnan hwf haccepted hxs hys
  have ⟨hfault, hport, hinst, hcapacity, hend⟩ := haccepted
  have hfirst : ProcessAccepted (s.withIn xs) d f := ⟨hfault, hport, hinst, hcapacity, le_trans (by omega) hend⟩
  have hsecond := processAccepted_processed (s := s.withIn xs) haccepted n
  obtain ⟨hexec, hrsp, -⟩ := exec_process_of_accepted hfirst n
  obtain ⟨hexec', hrsp', -⟩ := exec_process_of_accepted (s := ((s.withIn xs).processed d f n).withIn ys) hsecond n
  obtain ⟨hexecLong, hrspLong, -⟩ := exec_process_of_accepted (s := s.withIn (xs ++ ys)) haccepted n
  have hout := read_out_first (e := s.engine d) (ys := ys) (g := g) hnan hwf hxs
  obtain ⟨hinst', hwork', hout'⟩ := processBlock_second (e := s.engine d) hnan hwf hxs hys
  refine ⟨_, _, _, hexec, hexec', hexecLong, hrsp, hrsp', hrspLong, ?_, ?_, ?_, ?_⟩
  · rw [State.processed_inst, State.processed_inst, State.engine_processed_withIn]
    exact congrArg some hinst'
  · rw [State.processed_work, State.processed_work, State.engine_processed_withIn]
    exact hwork'
  · rw [State.processed_out, State.processed_out]
    exact hout
  · rw [State.processed_out, State.processed_out, State.engine_processed_withIn]
    exact hout'

end Sys2Proof.Machine
end

section
/-! SUPPORT. The parameter commands GETB, SETF and GETF on a living block that is not faulted (spec 44 R147 to R149). -/

namespace Sys2Proof.Machine

/-- Both ports accept SETF (spec 30 R60). -/
@[simp] theorem acceptedOn_setf (x : Nat) (v : Word) (q : Port) : (Instr.setf x v).acceptedOn q = true := by
  cases q <;> rfl

/-- Both ports accept GETF (spec 30 R60). -/
@[simp] theorem acceptedOn_getf (x : Nat) (q : Port) : (Instr.getf x).acceptedOn q = true := by
  cases q <;> rfl

/-- Settles O23: the checks pass, and `blobLength` is exact since the length fits 32 bits. -/
theorem getbCompletes : Obligations.GetbCompletes := by
  unfold Obligations.GetbCompletes
  intro s d hfault hport hinst hfits
  have hcheck : s.entryCheck (.getb 0) = none := (entryCheck_none _ _).2 ⟨hfault, by simp [hport]⟩
  refine ⟨blobLength d, Nat.mod_eq_of_lt hfits, ?_⟩
  simp [exec, execGetb, hcheck, hinst, blobIndexValid]

/-- Settles O24: both ports accept SETF, and index 1 is valid. -/
theorem setfCompletes : Obligations.SetfCompletes := by
  unfold Obligations.SetfCompletes
  intro s d v hfault hinst
  have hcheck : s.entryCheck (.setf 1 v) = none := (entryCheck_none _ _).2 ⟨hfault, acceptedOn_setf 1 v s.port⟩
  simp [exec, execSetf, hcheck, hinst, floatIndexValid, State.withInst]

/-- Settles O25: both ports accept GETF, and index 1 is valid. -/
theorem getfCompletes : Obligations.GetfCompletes := by
  unfold Obligations.GetfCompletes
  intro s d hfault hinst
  have hcheck : s.entryCheck (.getf 1) = none := (entryCheck_none _ _).2 ⟨hfault, acceptedOn_getf 1 s.port⟩
  simp [exec, execGetf, hcheck, hinst, floatIndexValid]

/-- GETF 1 on the port `q` returns the speed there and leaves a block that can be asked again. -/
theorem exec_getf_on_port {s : State} {d : DspState} (hfault : s.fault = false) (hinst : s.inst = some d) (q : Port) :
    ∃ u, exec (.getf 1) { s with port := q } = .next u ∧
      u.responses q = ⟨.ok, d.speedPercent, 0#32⟩ :: s.responses q ∧ u.fault = false ∧ u.inst = some d := by
  refine ⟨_, getfCompletes { s with port := q } d hfault hinst, ?_, ?_, ?_⟩
  · rw [State.respond_responses, if_pos rfl]
    cases q <;> rfl
  · rwa [State.respond_fault]
  · rwa [State.respond_inst]

/-- Settles O26: SETF leaves an instance with the word as its speed, and GETF returns it each time. -/
theorem setThenGetReturnsTheWord : Obligations.SetThenGetReturnsTheWord := by
  unfold Obligations.SetThenGetReturnsTheWord
  intro s v q hfault halive
  obtain ⟨d, hinst⟩ := Option.isSome_iff_exists.1 halive
  obtain ⟨t, hset, hfaultT, hinstT⟩ :
      ∃ t, exec (.setf 1 v) s = .next t ∧ t.fault = false ∧ t.inst = some { d with speedPercent := v } :=
    ⟨_, setfCompletes s d v hfault hinst, by rwa [State.respond_fault], by rw [State.respond_inst]⟩
  obtain ⟨u, hget, hanswer, hfaultU, hinstU⟩ := exec_getf_on_port hfaultT hinstT q
  obtain ⟨u', hget', hanswer', -⟩ := exec_getf_on_port hfaultU hinstU q
  exact ⟨t, u, hset, hget, hanswer, u', hget', hanswer'⟩

end Sys2Proof.Machine
end

section
/-! SUPPORT. The one answer of every word, and the priority table of spec 60 R170: its rows with their conditions, the
first of which is the status of the answer, and the statements about single statuses, each of which reads one row. -/

namespace Sys2Proof.Machine

open Claims

/-- From `s` to `t` the current port has returned the one response `r`, the other port none, and the inputs stand. -/
structure AnsweredOnce (s t : State) (r : Response) : Prop where
  inputs : t.inputs = s.inputs
  responses : ∀ q, t.responses q = if q = s.port then r :: s.responses q else s.responses q

theorem answeredOnce_raise (s : State) (e : Status) : AnsweredOnce s (s.raise e) ⟨e, 0#32, 0#32⟩ :=
  ⟨by simp, by simp⟩

theorem exec_next (i : Instr) (s : State) : ∃ t, exec i s = .next t := by
  cases i <;> exact ⟨_, rfl⟩

/-- A command answers an error, or `OK` without touching `fault`. -/
theorem exec_answer {i : Instr} {s t : State} (h : exec i s = .next t) :
    (∃ e, e ≠ .ok ∧ t = s.raise e) ∨ (t.fault = s.fault ∧ ∃ a b, AnsweredOnce s t ⟨.ok, a, b⟩) := by
  cases exec_effect h with
  | error _ e hne => exact .inl ⟨e, hne, rfl⟩
  | created | processed | speedSet | released => exact .inr ⟨by simp, 0#32, 0#32, by simp, by simp⟩
  | answered _ a b => exact .inr ⟨by simp, a, b, by simp, by simp⟩

/-- Every word, legal or not, is answered with one response (spec 60 R165). -/
theorem performWord_answeredOnce (w : CommandWord) (s : State) :
    ∃ t r, performWord w s = .next t ∧ AnsweredOnce s t r := by
  rcases hdecode : decode w with why | i
  · exact ⟨_, _, performWord_of_error hdecode s, answeredOnce_raise s _⟩
  · obtain ⟨t, ht⟩ := exec_next i s
    have hword : performWord w s = .next t := (performWord_of_decode hdecode s).trans ht
    obtain ⟨e, -, rfl⟩ | ⟨-, a, b, honce⟩ := exec_answer ht
    · exact ⟨_, _, hword, answeredOnce_raise s e⟩
    · exact ⟨t, _, hword, honce⟩

theorem step_of_idle {s : State} (h : s.inputs = []) : step s = .next s := by
  rw [step, h]

theorem step_of_input {s : State} {ev : HostEvent} {rest : List HostEvent} (h : s.inputs = ev :: rest) :
    step s = performEvent ev { s with inputs := rest } := by
  rw [step, h]

/-- Settles O7: a step is idle, a reset or a word, and a word is answered once (`performWord_answeredOnce`). -/
theorem everyCommandIsAnsweredOnce : Obligations.EveryCommandIsAnsweredOnce := by
  unfold Obligations.EveryCommandIsAnsweredOnce
  intro s
  rcases hinputs : s.inputs with _ | ⟨ev, rest⟩
  · exact ⟨s, step_of_idle hinputs, nofun, nofun⟩
  · rw [step_of_input hinputs]
    cases ev with
    | commandC w ins =>
      obtain ⟨t, r, ht, hin, hresponses⟩ := performWord_answeredOnce w (State.acceptC { s with inputs := rest } ins)
      refine ⟨t, ht, ?_, nofun⟩
      rintro _ _ _ ⟨⟩
      exact ⟨hin, hresponses .p, r, hresponses .c⟩
    | commandP w =>
      obtain ⟨t, r, ht, hin, hresponses⟩ := performWord_answeredOnce w (State.acceptP { s with inputs := rest })
      refine ⟨t, ht, nofun, ?_⟩
      rintro _ _ ⟨⟩
      exact ⟨hin, hresponses .c, r, hresponses .p⟩
    | reset | resetDuring w => exact ⟨_, rfl, nofun, nofun⟩

theorem Status.setsFault_eq (e : Status) : e.setsFault = (e == .errNoInstance || e == .errCounter) := by
  cases e <;> rfl

/-- Settles O14: an answer that is not `OK` is a raised error (`exec_answer`). -/
theorem errorsArePrecise : Obligations.ErrorsArePrecise := by
  unfold Obligations.ErrorsArePrecise
  intro i s t r h hresponse hne
  obtain ⟨e, -, rfl⟩ | ⟨-, a, b, honce⟩ := exec_answer h
  · obtain rfl : (⟨e, 0#32, 0#32⟩ : Response) = r := by simpa using hresponse
    refine ⟨rfl, rfl, ?_⟩
    rw [State.raise, Status.setsFault_eq, Bool.or_assoc]
  · obtain rfl : (⟨.ok, a, b⟩ : Response) = r := by simpa [honce.responses] using hresponse
    exact absurd rfl hne

/-- A faulted block answers every word `ERR_FAULTED` and changes nothing else (spec 60 R173). -/
theorem performWord_of_faulted {s : State} (hfault : s.fault = true) (w : CommandWord) :
    performWord w s = .next (s.respond .errFaulted 0#32 0#32) := by
  rcases hdecode : decode w with why | i
  · rw [performWord_of_error hdecode, State.answerIllegal_eq_respond, if_pos hfault]
  · have hcheck : s.entryCheck i = some .errFaulted := if_pos hfault
    rw [performWord_of_decode hdecode, exec_of_entryCheck_some hcheck, State.raise_of_not_setsFault _ _ rfl]

/-- Settles O15: by `performWord_of_faulted` a word keeps `fault`, so an input that clears it is a reset. -/
theorem faultedBlockRefusesEverything : Obligations.FaultedBlockRefusesEverything := by
  unfold Obligations.FaultedBlockRefusesEverything
  intro s hfault
  have hC : ∀ w ins rest, s.inputs = .commandC w ins :: rest → step s =
      .next { s with inputs := rest, port := .c, inBuf := ins, rspC := ⟨.errFaulted, 0#32, 0#32⟩ :: s.rspC } :=
    fun w ins rest hinputs => (step_of_input hinputs).trans
      (performWord_of_faulted (s := State.acceptC { s with inputs := rest } ins) hfault w)
  have hP : ∀ w rest, s.inputs = .commandP w :: rest → step s =
      .next { s with inputs := rest, port := .p, rspP := ⟨.errFaulted, 0#32, 0#32⟩ :: s.rspP } :=
    fun w rest hinputs => (step_of_input hinputs).trans
      (performWord_of_faulted (s := State.acceptP { s with inputs := rest }) hfault w)
  refine ⟨hC, hP, fun t ht hclear => ?_⟩
  rcases hinputs : s.inputs with _ | ⟨ev, rest⟩
  · cases (step_of_idle hinputs).symm.trans ht
    simp [hfault] at hclear
  · cases ev with
    | commandC w ins =>
      cases (hC w ins rest hinputs).symm.trans ht
      simp [hfault] at hclear
    | commandP w =>
      cases (hP w rest hinputs).symm.trans ht
      simp [hfault] at hclear
    | reset =>
      cases (step_of_input hinputs).symm.trans ht
      exact ⟨rfl, rest, .inl rfl⟩
    | resetDuring w =>
      cases (step_of_input hinputs).symm.trans ht
      exact ⟨rfl, rest, .inr ⟨w, rfl⟩⟩

theorem answers_of_answeredOnce {i : Instr} {s t : State} {r : Response} (h : exec i s = .next t)
    (honce : AnsweredOnce s t r) : Answers i s r.status :=
  ⟨t, r, h, by simp [honce.responses], rfl⟩

theorem answers_of_raise {i : Instr} {s : State} {e : Status} (h : exec i s = .next (s.raise e)) : Answers i s e :=
  answers_of_answeredOnce h (answeredOnce_raise s e)

theorem answers_ok {i : Instr} {s u : State} {a b : Word} (h : exec i s = .next (u.respond .ok a b))
    (hport : u.port = s.port) (hresponses : u.responses s.port = s.responses s.port) : Answers i s .ok :=
  ⟨_, ⟨.ok, a, b⟩, h, by simp [hport, hresponses], rfl⟩

/-- A command answers one status only. -/
theorem answers_unique {i : Instr} {s : State} {e e' : Status} (h : Answers i s e) (h' : Answers i s e') : e = e' := by
  obtain ⟨t, r, ht, hr, rfl⟩ := h
  obtain ⟨t', r', ht', hr', rfl⟩ := h'
  cases ht.symm.trans ht'
  rw [(List.cons.inj (hr.symm.trans hr')).1]

/-- An error answers by raising its status (spec 60 R174, R175). -/
theorem exec_of_answers {i : Instr} {s : State} {e : Status} (h : Answers i s e) (hne : e ≠ .ok) :
    exec i s = .next (s.raise e) := by
  obtain ⟨t, ht⟩ := exec_next i s
  obtain ⟨e', -, rfl⟩ | ⟨-, a, b, honce⟩ := exec_answer ht
  · rw [ht, answers_unique h (answers_of_raise ht)]
  · exact absurd (answers_unique h (answers_of_answeredOnce ht honce)) hne

/-- What a command makes of `fault`, read off the status it answers (spec 10 R16). -/
theorem fault_of_answers {i : Instr} {s t : State} {e : Status} (h : Answers i s e) (ht : exec i s = .next t) :
    t.fault = (s.fault || e.setsFault) := by
  obtain ⟨e', -, rfl⟩ | ⟨hkept, a, b, honce⟩ := exec_answer ht
  · rw [State.raise_fault, answers_unique h (answers_of_raise ht)]
  · rw [answers_unique h (answers_of_answeredOnce ht honce), hkept]
    exact (Bool.or_false _).symm

/-- The rows of the priority table (spec 60 R170) with the conditions under which they come first; past all of them the
command completes. -/
inductive PriorityRow (s : State) : Instr → Status → Prop
  | faulted (i : Instr) (hfault : s.fault = true) : PriorityRow s i .errFaulted
  | notAccepted (i : Instr) (hfault : s.fault = false) (haccepted : i.acceptedOn s.port = false) :
      PriorityRow s i .errIllegalCommand
  | noInstance (i : Instr) (hcreate : ∀ b, i ≠ .create b) (hfault : s.fault = false)
      (haccepted : i.acceptedOn s.port = true) (hinst : s.inst = none) : PriorityRow s i .errNoInstance
  | noStorage (b : Nat) (hfault : s.fault = false) (hport : s.port = .c)
      (hroom : s.alive = true ∨ 8 * b > s.config.ringWords) : PriorityRow s (.create b) .errOutOfMemory
  | mismatch (f m n : Nat) (d : DspState) (hfault : s.fault = false) (hport : s.port = .c) (hinst : s.inst = some d)
      (hne : m ≠ n) : PriorityRow s (.process f m n) .errChannelMismatch
  | emptyRing (f n : Nat) (d : DspState) (hfault : s.fault = false) (hport : s.port = .c) (hinst : s.inst = some d)
      (hcapacity : d.capacity = 0#32) : PriorityRow s (.process f n n) .errEmptyBuffer
  | counter (f n : Nat) (d : DspState) (hfault : s.fault = false) (hport : s.port = .c) (hinst : s.inst = some d)
      (hcapacity : d.capacity ≠ 0#32) (hend : d.sampleCount + f > 2 ^ s.config.scw - 1) :
      PriorityRow s (.process f n n) .errCounter
  | blobIndex (x : Nat) (d : DspState) (hfault : s.fault = false) (hport : s.port = .c) (hinst : s.inst = some d)
      (hx : x ≠ 0) : PriorityRow s (.getb x) .errInvalidParam
  | setIndex (x : Nat) (v : Word) (d : DspState) (hfault : s.fault = false) (hinst : s.inst = some d) (hx : x ≠ 1) :
      PriorityRow s (.setf x v) .errInvalidParam
  | getIndex (x : Nat) (d : DspState) (hfault : s.fault = false) (hinst : s.inst = some d) (hx : x ≠ 1) :
      PriorityRow s (.getf x) .errInvalidParam
  | completed (i : Instr) (hok : Answers i s .ok) : PriorityRow s i .ok

/-- The common checks pass on the C-port of a block that is not faulted (spec 60 R170). -/
theorem entryCheck_c {s : State} (hfault : s.fault = false) (hport : s.port = .c) (i : Instr) :
    s.entryCheck i = none :=
  (entryCheck_none s i).2 ⟨hfault, by simp [hport]⟩

/-- A command that needs an instance faults without one (spec 60 R171). -/
theorem exec_of_dead {i : Instr} {s : State} (hcreate : ∀ b, i ≠ .create b) (hcheck : s.entryCheck i = none)
    (hinst : s.inst = none) : exec i s = .next (s.raise .errNoInstance) := by
  cases i with
  | create b => exact absurd rfl (hcreate b)
  | process | getb | setf | getf | release =>
    simp [exec, execProcess, execGetb, execSetf, execGetf, execRelease, hcheck, hinst]

/-- A CREATE that cannot get its storage (spec 60 R166). -/
theorem exec_create_of_no_room {b : Nat} {s : State} (hcheck : s.entryCheck (.create b) = none)
    (h : s.alive = true ∨ 8 * b > s.config.ringWords) : exec (.create b) s = .next (s.raise .errOutOfMemory) := by
  simp only [exec, execCreate, hcheck]
  cases halive : s.alive with
  | true => rfl
  | false => rw [if_neg (by simp), if_pos (by simpa [halive, Config.maxch] using h)]

/-- The command of a row answers its status. -/
theorem PriorityRow.answers {i : Instr} {s : State} {e : Status} (h : PriorityRow s i e) : Answers i s e := by
  cases h with
  | faulted i hfault => exact answers_of_raise (exec_of_entryCheck_some (if_pos hfault))
  | notAccepted i hfault haccepted =>
    exact answers_of_raise (exec_of_entryCheck_some (by simp [State.entryCheck, hfault, haccepted]))
  | noInstance i hcreate hfault haccepted hinst =>
    exact answers_of_raise (exec_of_dead hcreate ((entryCheck_none s i).2 ⟨hfault, haccepted⟩) hinst)
  | noStorage b hfault hport hroom =>
    exact answers_of_raise (exec_create_of_no_room (entryCheck_c hfault hport _) hroom)
  | mismatch f m n d hfault hport hinst hne =>
    exact answers_of_raise (exec_process_of_check hfault hport hinst (by simp [processCheck, hne]))
  | emptyRing f n d hfault hport hinst hcapacity =>
    exact answers_of_raise (exec_process_of_check hfault hport hinst (by simp [processCheck, hcapacity]))
  | counter f n d hfault hport hinst hcapacity hend =>
    exact answers_of_raise (exec_process_of_check hfault hport hinst
      (by simpa [processCheck, hcapacity, Config.maxSampleCount] using hend))
  | blobIndex x d hfault hport hinst hx =>
    exact answers_of_raise (by simp [exec, execGetb, entryCheck_c hfault hport, hinst, blobIndexValid, hx])
  | setIndex x v d hfault hinst hx =>
    have hcheck := (entryCheck_none s (.setf x v)).2 ⟨hfault, acceptedOn_setf x v s.port⟩
    exact answers_of_raise (by simp [exec, execSetf, hcheck, hinst, floatIndexValid, hx])
  | getIndex x d hfault hinst hx =>
    have hcheck := (entryCheck_none s (.getf x)).2 ⟨hfault, acceptedOn_getf x s.port⟩
    exact answers_of_raise (by simp [exec, execGetf, hcheck, hinst, floatIndexValid, hx])
  | completed _ hok => exact hok

/-- The P-port takes only SETF and GETF, by their names in the table (spec 30 R60, R68). -/
theorem acceptedOn_eq_false_iff_mnemonic (i : Instr) (q : Port) :
    i.acceptedOn q = false ↔ q = .p ∧ i.mnemonic ≠ "SETF" ∧ i.mnemonic ≠ "GETF" := by
  cases i <;> cases q <;> simp [Instr.acceptedOn, Instr.mnemonic]

/-- A CREATE with room for its ring completes (spec 44 R145). -/
theorem create_answers_ok {b : Nat} {s : State} (hfault : s.fault = false) (hport : s.port = .c)
    (hinst : s.inst = none) (hroom : ¬8 * b > s.config.ringWords) : Answers (.create b) s .ok := by
  refine answers_ok (u := (s.withInst (some (newInstance b s.draws))).drew 2) (a := 0#32) (b := 0#32) ?_ rfl rfl
  simp only [exec, execCreate, entryCheck_c hfault hport, State.alive, hinst]
  exact congrArg _ (if_neg hroom)

/-- GETB 0 completes (spec 44 R147). -/
theorem getb_answers_ok {s : State} {d : DspState} (hfault : s.fault = false) (hport : s.port = .c)
    (hinst : s.inst = some d) : Answers (.getb 0) s .ok :=
  answers_ok (u := s) (a := s.config.stateBase) (b := blobLength d)
    (by simp [exec, execGetb, entryCheck_c hfault hport, hinst, blobIndexValid]) rfl rfl

/-- The commands that only the C-port accepts (spec 30 R60). -/
theorem port_c_of_acceptedOn {i : Instr} {q : Port} (h : i.acceptedOn q = true)
    (hp : i.acceptedOn .p = false) : q = .c := by
  cases q with
  | c => rfl
  | p => exact absurd (h.symm.trans hp) nofun

/-- The status of the table is that of one of its rows, found by the branches of the table. -/
theorem priorityRow_priorityStatus (i : Instr) (s : State) : PriorityRow s i (priorityStatus i s) := by
  unfold priorityStatus
  split_ifs with hfault hport
  · exact .faulted i hfault
  · exact .notAccepted i (Bool.eq_false_of_not_eq_true hfault) ((acceptedOn_eq_false_iff_mnemonic i s.port).2 hport)
  · replace hfault := Bool.eq_false_of_not_eq_true hfault
    have haccepted : i.acceptedOn s.port = true :=
      Bool.eq_true_of_not_eq_false fun h => hport ((acceptedOn_eq_false_iff_mnemonic i s.port).1 h)
    rcases hinst : s.inst with _ | d
    · cases i with
      | create b =>
        have hc := port_c_of_acceptedOn haccepted rfl
        dsimp only
        split_ifs with hroom
        · exact .noStorage b hfault hc (.inr hroom)
        · exact .completed _ (create_answers_ok hfault hc hinst hroom)
      | process | getb | setf | getf | release => exact .noInstance _ nofun hfault haccepted hinst
    · cases i with
      | create b =>
        exact .noStorage b hfault (port_c_of_acceptedOn haccepted rfl) (.inl (by simp [State.alive, hinst]))
      | process f m n =>
        have hc := port_c_of_acceptedOn haccepted rfl
        dsimp only
        split_ifs with hne hempty hend
        · exact .mismatch f m n d hfault hc hinst hne
        all_goals obtain rfl : m = n := not_not.1 hne
        · exact .emptyRing f m d hfault hc hinst (BitVec.eq_of_toNat_eq hempty)
        · exact .counter f m d hfault hc hinst (fun h => hempty (by simp [h])) hend
        · obtain ⟨hexec, -, -⟩ := exec_process_of_accepted (f := f)
            ⟨hfault, hc, hinst, fun h => hempty (by simp [h]), Nat.not_lt.1 hend⟩ m
          exact .completed _ (answers_ok (u := s.commit (processBlock ⟨f, m, m⟩ (s.engine d))) hexec rfl rfl)
      | getb x =>
        have hc := port_c_of_acceptedOn haccepted rfl
        dsimp only
        split_ifs with hx
        · exact .blobIndex x d hfault hc hinst hx
        · obtain rfl : x = 0 := not_not.1 hx
          exact .completed _ (getb_answers_ok hfault hc hinst)
      | setf x v =>
        dsimp only
        split_ifs with hx
        · exact .setIndex x v d hfault hinst hx
        · obtain rfl : x = 1 := not_not.1 hx
          exact .completed _ (answers_ok (setfCompletes s d v hfault hinst) rfl rfl)
      | getf x =>
        dsimp only
        split_ifs with hx
        · exact .getIndex x d hfault hinst hx
        · obtain rfl : x = 1 := not_not.1 hx
          exact .completed _ (answers_ok (getfCompletes s d hfault hinst) rfl rfl)
      | release =>
        have hc := port_c_of_acceptedOn haccepted rfl
        exact .completed _ (answers_ok (releaseCompletes s hfault hc (by simp [State.alive, hinst])) rfl rfl)

/-- A command answers a status exactly when it stands in a row of the table with that status. -/
theorem answers_iff_priorityRow {i : Instr} {s : State} {e : Status} : Answers i s e ↔ PriorityRow s i e := by
  refine ⟨fun h => ?_, PriorityRow.answers⟩
  have hrow := priorityRow_priorityStatus i s
  rwa [answers_unique hrow.answers h] at hrow

/-- Settles O13: the status is that of a row (`priorityRow_priorityStatus`), whose command answers it. -/
theorem statusFollowsPriorityTable : Obligations.StatusFollowsPriorityTable := by
  unfold Obligations.StatusFollowsPriorityTable
  have hanswers : ∀ i s, Answers i s (priorityStatus i s) := fun i s => (priorityRow_priorityStatus i s).answers
  refine ⟨hanswers, fun i s t ht => ?_, fun w why s hdecode => ?_⟩
  · rw [fault_of_answers (hanswers i s) ht, Status.setsFault_eq, Bool.or_assoc]
  · rw [performWord_of_error hdecode, State.answerIllegal_eq_respond]

/-- An error that does not set `fault` changes nothing but its response (spec 60 R175). -/
theorem exec_of_answers_not_setsFault {i : Instr} {s : State} {e : Status} (h : Answers i s e) (hne : e ≠ .ok)
    (hkept : e.setsFault = false) : exec i s = .next (s.respond e 0#32 0#32) := by
  rw [exec_of_answers h hne, State.raise_of_not_setsFault _ _ hkept]

/-- An error that sets `fault` changes nothing else but its response (spec 60 R171, R172). -/
theorem exec_of_answers_setsFault {i : Instr} {s : State} {e : Status} (h : Answers i s e)
    (hset : e.setsFault = true) : exec i s = .next { s.respond e 0#32 0#32 with fault := true } := by
  have hne : e ≠ .ok := by rintro rfl; cases hset
  rw [exec_of_answers h hne, State.raise_of_setsFault _ _ hset]

/-- Settles O16: the row `noInstance`; the P-port accepts SETF and GETF. -/
theorem commandWithoutInstanceFaults : Obligations.CommandWithoutInstanceFaults := by
  unfold Obligations.CommandWithoutInstanceFaults
  intro i s hcreate hfault hdead hport
  have haccepted : i.acceptedOn s.port = true := by
    obtain hport | ⟨x, v, rfl | rfl⟩ := hport
    · rw [hport, acceptedOn_c]
    · exact acceptedOn_setf x v s.port
    · exact acceptedOn_getf x s.port
  have hinst : s.inst = none := by simpa [State.alive] using hdead
  exact exec_of_answers_setsFault (PriorityRow.noInstance i hcreate hfault haccepted hinst).answers rfl

/-- Settles O17: the row `counter`. -/
theorem counterExhaustionFaults : Obligations.CounterExhaustionFaults := by
  unfold Obligations.CounterExhaustionFaults
  intro s d f n hfault hport hinst hcapacity hend
  exact exec_of_answers_setsFault (PriorityRow.counter f n d hfault hport hinst hcapacity hend).answers rfl

/-- Settles O18: the one row with this status is `emptyRing`. -/
theorem emptyBufferExactly : Obligations.EmptyBufferExactly := by
  unfold Obligations.EmptyBufferExactly
  refine fun i s => ⟨?_, fun h => exec_of_answers_not_setsFault h nofun rfl, rfl⟩
  rw [answers_iff_priorityRow]
  constructor
  · rintro ⟨⟩
    case emptyRing f n d hfault hport hinst hcapacity => exact ⟨f, n, d, rfl, hfault, hport, hinst, hcapacity⟩
  · rintro ⟨f, n, d, rfl, hfault, hport, hinst, hcapacity⟩
    exact .emptyRing f n d hfault hport hinst hcapacity

/-- Settles O19: the one row with this status is `noStorage`. -/
theorem outOfMemoryExactly : Obligations.OutOfMemoryExactly := by
  unfold Obligations.OutOfMemoryExactly
  refine fun i s => ⟨?_, fun h => exec_of_answers_not_setsFault h nofun rfl, rfl⟩
  rw [answers_iff_priorityRow]
  constructor
  · rintro ⟨⟩
    case noStorage b hfault hport hroom => exact ⟨b, rfl, hfault, hport, hroom⟩
  · rintro ⟨b, rfl, hfault, hport, hroom⟩
    exact .noStorage b hfault hport hroom

/-- Settles O20: the rows with this status are the three of an index. -/
theorem invalidIndexExactly : Obligations.InvalidIndexExactly := by
  unfold Obligations.InvalidIndexExactly
  refine fun i s => ⟨?_, fun h => exec_of_answers_not_setsFault h nofun rfl, rfl⟩
  rw [answers_iff_priorityRow]
  constructor
  · rintro ⟨⟩
    case blobIndex x d hfault hport hinst hx =>
      exact ⟨hfault, by simp [State.alive, hinst], .inl ⟨hport, x, rfl, hx⟩⟩
    case setIndex x v d hfault hinst hx =>
      exact ⟨hfault, by simp [State.alive, hinst], .inr (.inl ⟨x, v, rfl, hx⟩)⟩
    case getIndex x d hfault hinst hx =>
      exact ⟨hfault, by simp [State.alive, hinst], .inr (.inr ⟨x, rfl, hx⟩)⟩
  · rintro ⟨hfault, halive, h⟩
    obtain ⟨d, hinst⟩ := Option.isSome_iff_exists.1 halive
    obtain ⟨hport, x, rfl, hx⟩ | ⟨x, v, rfl, hx⟩ | ⟨x, rfl, hx⟩ := h
    · exact .blobIndex x d hfault hport hinst hx
    · exact .setIndex x v d hfault hinst hx
    · exact .getIndex x d hfault hinst hx

end Sys2Proof.Machine
end

section
/-! SUPPORT. Hardware reset between commands and during one (spec 70 R190, R191): `step_of_input` names the state it
leaves, and the OUT words it opens are those `outWordsAtRisk` counts. -/

namespace Sys2Proof.Machine

/-- Settles O11: a reset leaves `State.hardwareReset`; that only a reset clears `fault` is
`faultedBlockRefusesEverything`. -/
theorem hardwareResetRestarts : Obligations.HardwareResetRestarts := by
  unfold Obligations.HardwareResetRestarts
  refine ⟨fun s rest hinputs => ?_, fun s t ht hfault hclear => ?_, fun s => step_of_idle⟩
  · exact ⟨State.hardwareReset { s with inputs := rest }, step_of_input hinputs,
      rfl, rfl, rfl, rfl, rfl, rfl, rfl, rfl, rfl⟩
  · obtain ⟨-, -, honlyReset⟩ := faultedBlockRefusesEverything s hfault
    obtain ⟨-, hreset⟩ := honlyReset t ht hclear
    exact hreset

theorem outWordsAtRisk_of_process {w : CommandWord} {f i o : Nat} (h : decode w = .ok (.process f i o)) :
    outWordsAtRisk w = f * o := by
  rw [outWordsAtRisk, h]

theorem outWordsAtRisk_of_not_process {w : CommandWord} (h : ∀ f i o, decode w ≠ .ok (.process f i o)) :
    outWordsAtRisk w = 0 := by
  rcases hdecode : decode w with why | c
  · rw [outWordsAtRisk, hdecode]
  · cases c with
    | process f i o => exact absurd hdecode (h f i o)
    | create | getb | setf | getf | release => rw [outWordsAtRisk, hdecode]

/-- An abandoned PROCESS opens only the words it had to store (spec 70 R191). -/
theorem read_out_resetDuring_of_process (s : State) {w : CommandWord} {f i o k : Nat}
    (h : decode w = .ok (.process f i o)) (hk : f * o ≤ k) :
    Memory.read (s.resetDuring w).out k = Memory.read s.out k :=
  read_unspecifiedOut s.out s.draws _ k ((outWordsAtRisk_of_process h).trans_le hk)

/-- Any other abandoned word opens no OUT word (spec 70 R191). -/
theorem resetDuring_out_of_not_process (s : State) {w : CommandWord} (h : ∀ f i o, decode w ≠ .ok (.process f i o)) :
    (s.resetDuring w).out = s.out :=
  congrArg (unspecifiedOut s.out s.draws) (outWordsAtRisk_of_not_process h)

/-- Settles O12: a reset during a command leaves `State.resetDuring`, which differs from `State.hardwareReset` in the
OUT words at risk and the draw counter alone. -/
theorem resetAbandonsCommand : Obligations.ResetAbandonsCommand := by
  unfold Obligations.ResetAbandonsCommand
  intro s w rest hinputs
  refine ⟨State.resetDuring { s with inputs := rest } w, step_of_input hinputs,
    rfl, rfl, rfl, rfl, rfl, rfl, rfl, rfl, ?_, ?_⟩
  · exact fun f i o h k hk => read_out_resetDuring_of_process _ h hk
  · exact fun h => resetDuring_out_of_not_process _ h

end Sys2Proof.Machine
end
